-- ==== Sys2Proof/Word.lean ====
section
/-! DEFINITION. The machine's word types (spec/00_scope.md section 5, 30_encoding.md rules R80 and R83).
Every store element, SegmentCode, character and pin identifier is one byte; operands and the clock are 32 bits. -/

namespace Sys2Proof

/-- `u8` of the notation section: one byte. -/
abbrev Byte := BitVec 8

/-- `u32` of the notation section: the width of operand port `A` and of the clock (`CLK_W = INT_W = HEX_W = 32`, R8's table). -/
abbrev Word := BitVec 32

/-- A SegmentCode (R80): one bit per segment or decimal point, active-low. -/
abbrev Seg := Byte

/-- A character code (R83): ASCII values, `0x00` the InputBuffer terminator. -/
abbrev CharCode := Byte

end Sys2Proof
end

