-- ==== Sys2Proof/Config.lean ====
section
/-! DEFINITION. The configuration: sizes fixed when the block is built, the type of the parameter table of
spec/00_scope.md (rules R8 and R9), and the open values, which have no body. The values this hardware gives the
parameters stand in Sys2Proof/Machine/Parameters.lean. -/

namespace Sys2Proof

/-- `N` (R8): the number of digits. -/
abbrev nDigits : Nat := 4

/-- `BUF_CAP` (R8's table): SymbolBuffer capacity, terminator slot included. -/
abbrev bufCap : Nat := 20

/-- `MAX_IN = BUF_CAP - (N-1) - N` (R24): InputBuffer size, terminator included. -/
abbrev maxIn : Nat := bufCap - (nDigits - 1) - nDigits

/-- One frame: `N` SegmentCodes, index 0 the leftmost digit (R26, R156). -/
abbrev Frame := Vector Seg nDigits

/-- The seven segments of one digit (R81). -/
inductive Segment where
  | a | b | c | d | e | f | g
  deriving DecidableEq, Repr

/-- All seven segments, in the order of R81's table. -/
def Segment.all : List Segment := [.a, .b, .c, .d, .e, .f, .g]

/-- The 19 base symbols (R82; 90_conflicts.md C1 settles the count). -/
inductive Symbol where
  | digit (n : Fin 10)
  | letterA | letterB | letterC | letterD | letterE | letterF | letterR
  | hyphen
  | blank
  deriving DecidableEq, Repr

/-- The parameters of 00_scope.md's table that are not sizes. Claims that the spec asks to hold for every value of a
parameter quantify over a `Params`. -/
structure Params where
  /-- `SEG_BIT`: the SegmentCode bit of each segment. -/
  segBit : Segment → Fin 8
  /-- `DP_BIT`: the SegmentCode bit of the decimal point. -/
  dpBit : Fin 8
  /-- `GLYPH`: the segments lit for each base symbol. -/
  glyph : Symbol → List Segment
  /-- `DOT_ALIAS`: the character that means "digit n with dot". -/
  dotAlias : Fin 10 → CharCode
  /-- `REFRESH_MS`: the multiplex refresh interval. -/
  refreshMs : Word
  /-- `SCROLL_MS`: the scroll advance interval. -/
  scrollMs : Word
  /-- `ERROR_MS`: the error overlay duration. -/
  errorMs : Word
  /-- `INIT_FRAME`: the CurrentFrame contents INIT writes. -/
  initFrame : Frame
  /-- `FSCALE`: the scale-and-truncate function of SHOWF; `none` where R147 raises FLOAT_RANGE. -/
  fscale : Word → Byte → Option Word

/-- The two edges of the shift clock. -/
inductive ClockEdge where
  | rising | falling
  deriving DecidableEq, Repr, Inhabited

/-- `DIGIT_ON_LEVEL` (R64, D12): the electrical level that enables a digit line. OPEN, so it has no body. -/
opaque Config.digitOnLevel : Bool

/-- `SHIFT_CLK_EDGE` (R65, D22): the edge on which the shift register samples data. OPEN, so it has no body. -/
opaque Config.shiftClkEdge : ClockEdge

/-- The value read at an index outside a store. R67 says that no rule computes one; a state that no run reaches can hold
such an index, and the value read there is free (assumption 9). -/
opaque Config.outsideStore : Nat → Seg

end Sys2Proof
end

