-- ==== Sys2Proof/Syntax.lean ====
section
/-! DEFINITION. The nine operations of spec/opcode_table.json with their operands (30_encoding.md rules R87 to R89),
and a command as the host puts it on the ports (R86). -/

namespace Sys2Proof

/-- The command formats of R87. -/
inductive Format where
  | N | V | VF | C | P
  deriving DecidableEq, Repr

/-- One operation with its operand ports. Every port value is legal (R22, R89): the widths are the types. -/
inductive Instr where
  /-- INIT (R230): data pin, clock pin, digit pins 0 to 3. -/
  | init (p0 p1 p2 p3 p4 p5 : Byte)
  /-- STEP (R180). -/
  | step
  /-- SHOWI (R161): `a` is read as `s32`. -/
  | showi (a : Word)
  /-- SHOWF (R162): `a` is a binary32 pattern, `b` the number of decimal places. -/
  | showf (a : Word) (b : Byte)
  /-- SHOWH (R163): `a` is read as `u32`. -/
  | showh (a : Word)
  /-- SHOWRSV (R164): the operands are not read. -/
  | showrsv (a : Word) (b : Byte)
  /-- SHOWERR (R210). -/
  | showerr
  /-- ENCODE (R116): `b` is a character. -/
  | encode (b : CharCode)
  /-- ADDDP (R117): `b` is any SegmentCode. -/
  | adddp (b : Seg)
  deriving DecidableEq, Repr

/-- A command on the ports (R86): the opcode byte and the operand ports, all at once. A port outside the opcode's format
carries nothing the block reads (R87, R88). -/
structure Command where
  op : Byte
  a : Word
  b : Byte
  p0 : Byte
  p1 : Byte
  p2 : Byte
  p3 : Byte
  p4 : Byte
  p5 : Byte
  deriving DecidableEq, Repr

/-- One issue of a command by the host: the command, the clock value its `ClockRead()` returns (R77, R93), and whether the
host issued it before the previous operation had completed (R73). -/
structure HostInput where
  cmd : Command
  now : Word
  overlaps : Bool
  deriving DecidableEq, Repr

end Sys2Proof
end

