-- ==== Sys2Proof/WellFormed.lean ====
section
/-! DEFINITION. Well-formedness. An `Instr` has no ill-formed term: every port value is legal (R22, R89) and the widths are
in the types. What can be ill-formed is a command that puts a value on a port its format does not list (R87: "A field not
listed for a format is absent"), and a parameter set whose bit or alias assignments collide (R80, R81, R84). -/

namespace Sys2Proof

/-- Port `A` is absent from the format, or listed. -/
def Format.hasA : Format → Bool
  | .V | .VF => true
  | .N | .C | .P => false

/-- Port `B` is listed for the format. -/
def Format.hasB : Format → Bool
  | .VF | .C => true
  | .N | .V | .P => false

/-- Ports `P0` to `P5` are listed for the format. -/
def Format.hasP : Format → Bool
  | .P => true
  | .N | .V | .VF | .C => false

/-- A command in the canonical form of its format: every port the format does not list is zero (R87). -/
def Command.wf (f : Format) (c : Command) : Bool :=
  (f.hasA || c.a == 0) && (f.hasB || c.b == 0) &&
    (f.hasP || (c.p0 == 0 && c.p1 == 0 && c.p2 == 0 && c.p3 == 0 && c.p4 == 0 && c.p5 == 0))

/-- The seven segments and the decimal point have eight different bits (R80: "each bit controls one LED segment or the
decimal point"). -/
def Params.bitsDistinct (p : Params) : Bool :=
  decide ((p.dpBit :: Segment.all.map p.segBit).Nodup)

/-- The ten dot aliases are different characters (R84). -/
def Params.aliasesDistinct (p : Params) : Bool :=
  decide ((List.ofFn p.dotAlias).Nodup)

/-- A well-formed parameter set. -/
def Params.wf (p : Params) : Bool := p.bitsDistinct && p.aliasesDistinct

end Sys2Proof
end

