-- ==== Sys2Proof/Decode.lean ====
section
/-! DEFINITION. The command decoder and encoder, both written from the opcode map of 30_encoding.md rule R88, and the layout
of a command as one number for the opcode table. The decoder is total: an opcode outside the map is named (R91, R234). -/

namespace Sys2Proof

/-- What the decoder reads from a command. -/
inductive Decoded where
  /-- One of the nine operations of the map. -/
  | instr (i : Instr)
  /-- An opcode outside the map (R91): it has a meaning of its own, R234. -/
  | undefined (op : Byte)
  deriving DecidableEq, Repr

/-- The opcode map of R88, read from the command ports; only the ports of the opcode's format are read (R92). -/
def decode (c : Command) : Decoded :=
  match c.op with
  | 0x01#8 => .instr (.init c.p0 c.p1 c.p2 c.p3 c.p4 c.p5)
  | 0x02#8 => .instr .step
  | 0x10#8 => .instr (.showi c.a)
  | 0x11#8 => .instr (.showf c.a c.b)
  | 0x12#8 => .instr (.showh c.a)
  | 0x13#8 => .instr (.showrsv c.a c.b)
  | 0x20#8 => .instr .showerr
  | 0x30#8 => .instr (.encode c.b)
  | 0x31#8 => .instr (.adddp c.b)
  | op => .undefined op

/-- The opcode byte of each operation (R88). -/
def Instr.opcode : Instr → Byte
  | .init .. => 0x01#8
  | .step => 0x02#8
  | .showi _ => 0x10#8
  | .showf _ _ => 0x11#8
  | .showh _ => 0x12#8
  | .showrsv _ _ => 0x13#8
  | .showerr => 0x20#8
  | .encode _ => 0x30#8
  | .adddp _ => 0x31#8

/-- The format of each operation (R88). -/
def Instr.format : Instr → Format
  | .init .. => .P
  | .step => .N
  | .showi _ => .V
  | .showf _ _ => .VF
  | .showh _ => .V
  | .showrsv _ _ => .VF
  | .showerr => .N
  | .encode _ => .C
  | .adddp _ => .C

/-- The ports at rest: everything zero but the opcode. -/
def Command.bare (op : Byte) : Command :=
  { op := op, a := 0, b := 0, p0 := 0, p1 := 0, p2 := 0, p3 := 0, p4 := 0, p5 := 0 }

/-- The command of an operation: its opcode and its operand ports, every other port zero (R86 to R88). -/
def encode (i : Instr) : Command :=
  match i with
  | .init p0 p1 p2 p3 p4 p5 =>
      { Command.bare i.opcode with p0 := p0, p1 := p1, p2 := p2, p3 := p3, p4 := p4, p5 := p5 }
  | .step => Command.bare i.opcode
  | .showi a => { Command.bare i.opcode with a := a }
  | .showf a b => { Command.bare i.opcode with a := a, b := b }
  | .showh a => { Command.bare i.opcode with a := a }
  | .showrsv a b => { Command.bare i.opcode with a := a, b := b }
  | .showerr => Command.bare i.opcode
  | .encode b => { Command.bare i.opcode with b := b }
  | .adddp b => { Command.bare i.opcode with b := b }

/-- The format of an opcode, where the map of R88 has one. -/
def formatOf (op : Byte) : Option Format :=
  match decode (Command.bare op) with
  | .instr i => some i.format
  | .undefined _ => none

/-- A field of `width` bits that starts at bit `lo` of a number. -/
def fieldAt (w lo width : Nat) : BitVec width := BitVec.ofNat width (w >>> lo)

/-- The command that a number stands for (assumption 2): the opcode in bits 7..0, then the fields of its format in the order
R87 lists them, each whole and least significant bit first. -/
def Command.ofBits (w : Nat) : Command :=
  let c := Command.bare (fieldAt w 0 8)
  match formatOf c.op with
  | some .V => { c with a := fieldAt w 8 32 }
  | some .VF => { c with a := fieldAt w 8 32, b := fieldAt w 40 8 }
  | some .C => { c with b := fieldAt w 8 8 }
  | some .P =>
      { c with
        p0 := fieldAt w 8 8, p1 := fieldAt w 16 8, p2 := fieldAt w 24 8
        p3 := fieldAt w 32 8, p4 := fieldAt w 40 8, p5 := fieldAt w 48 8 }
  | some .N | none => c

/-- How many bits a command of a format has in that layout: the opcode byte and the format's fields (R87). -/
def Format.bits : Format → Nat
  | .N => 8
  | .V => 40
  | .VF => 48
  | .C => 16
  | .P => 56

/-- The number that stands for an operation, in the layout of `Command.ofBits`. -/
def encodeBits (i : Instr) : Nat :=
  match i with
  | .init p0 p1 p2 p3 p4 p5 =>
      i.opcode.toNat + p0.toNat * 2 ^ 8 + p1.toNat * 2 ^ 16 + p2.toNat * 2 ^ 24 + p3.toNat * 2 ^ 32
        + p4.toNat * 2 ^ 40 + p5.toNat * 2 ^ 48
  | .step | .showerr => i.opcode.toNat
  | .showi a | .showh a => i.opcode.toNat + a.toNat * 2 ^ 8
  | .showf a b | .showrsv a b => i.opcode.toNat + a.toNat * 2 ^ 8 + b.toNat * 2 ^ 40
  | .encode b | .adddp b => i.opcode.toNat + b.toNat * 2 ^ 8

/-- The operation the decoder reads from a number of `nbits` bits, numbered as spec/opcode_table.json numbers them. -/
def decodeTableWord (nbits w : Nat) : Option Instr :=
  match decode (Command.ofBits (w % 2 ^ nbits)) with
  | .instr i => some i
  | .undefined _ => none

end Sys2Proof
end

