-- ==== Sys2Proof/Machine/State.lean ====
section
/-! DEFINITION. The block's whole state (10_state.md), its ports (20_memory.md section 3, rule R77), the reasons a step can
stop, and the power-on state. -/

namespace Sys2Proof.Machine

open Sys2Proof

/-- The kinds of report on the diagnostic channel (R251). -/
inductive DiagKind where
  /-- Class (a): an encoder lookup outside the whitelist; information: the character code. -/
  | unsupportedChar
  /-- Class (b): a formatter text that does not fit; information: its untruncated length. -/
  | formatOverflow
  /-- Class (c): the reserved format selector; information: the selector. -/
  | unknownSelector
  /-- The spec's own: an opcode outside the map; information: the opcode. -/
  | undefinedOpcode
  deriving DecidableEq, Repr

/-- A port event of the output trace (R63). -/
inductive Event where
  /-- `DigitEnable(i, on)`. -/
  | digitEnable (i : Fin nDigits) (on : Bool)
  /-- `ShiftOut(code)`. -/
  | shiftOut (code : Seg)
  /-- `Diag(kind, info)`. -/
  | diag (kind : DiagKind) (info : Nat)
  deriving DecidableEq, Repr

/-- What a port event does on the pins (R64, R65), each on the pin that INIT gave the role (R22, R232). -/
inductive PinAction where
  /-- Drive a digit-enable line to `DIGIT_ON_LEVEL` (`on`) or to the other level. -/
  | digitLine (pin : Byte) (on : Bool)
  /-- Drive the data line to a bit. -/
  | dataLine (pin : Byte) (bit : Bool)
  /-- One pulse of the clock line. -/
  | clockPulse (pin : Byte)
  deriving DecidableEq, Repr

/-- A value on the result port (R90). -/
inductive Result where
  /-- ENCODE's pair `(code, ok)`. -/
  | encoded (code : Seg) (ok : Bool)
  /-- ADDDP's code. -/
  | code (code : Seg)
  deriving DecidableEq, Repr

/-- The state of the block, and its ports. Field names follow 10_state.md. -/
structure State where
  /-- INIT has run at least once (R23). -/
  configured : Bool
  /-- The data pin (R22). -/
  pinData : Byte
  /-- The clock pin (R22). -/
  pinClk : Byte
  /-- The digit pins (R22). -/
  pinDig : Vector Byte nDigits
  /-- InputBuffer (R24). -/
  inBuf : Vector CharCode maxIn
  /-- SymbolBuffer (R25). -/
  symBuf : Vector Seg bufCap
  /-- The number of meaningful SymbolBuffer entries (R25). -/
  symLen : Byte
  /-- CurrentFrame (R26). -/
  frame : Frame
  /-- CurrentFrameBackup (R27). -/
  frameBak : Frame
  /-- CurrentFrameBackup is valid (R27). -/
  bakValid : Bool
  /-- Scrolling mode (R28). -/
  scrollActive : Bool
  /-- Total frame count of the scroll (R28). -/
  scrollFrames : Byte
  /-- Current frame index of the scroll (R28). -/
  scrollIdx : Byte
  /-- Last-advance timestamp (R28). -/
  scrollTs : Word
  /-- Active digit index: a `u8` in `[0, N)` (R29). -/
  muxIdx : Fin nDigits
  /-- Previously active digit index: a `u8` in `[0, N)` (R29). -/
  muxPrev : Fin nDigits
  /-- Last-switch timestamp (R29). -/
  muxTs : Word
  /-- An error overlay is active (R30). -/
  errActive : Bool
  /-- The overlay's start timestamp (R30). -/
  errTs : Word
  /-- The clock port: what `ClockRead()` returns during the current command (R77). -/
  clock : Word
  /-- The result port of the current command (R90). -/
  result : Option Result
  /-- The output trace, oldest event first (R63). -/
  trace : List Event
  /-- What the events did on the pins, oldest first (R64, R65). -/
  pinTrace : List PinAction
  /-- The commands the host has yet to issue, next first (R21: "the next operation is whatever the host issues next"). -/
  host : List HostInput
  deriving DecidableEq, Repr

/-- The spec's fault reasons (R253). A fault ends the run: after it the block's behaviour is unspecified. -/
inductive Fault where
  /-- Raised by STEP, SHOWI, SHOWF, SHOWH, SHOWRSV and SHOWERR before the first INIT (R233). Safe: the spec gives no
  meaning to such a command. -/
  | notConfigured
  /-- Raised by SHOWF on a NaN, an infinity or a scaled value that is no finite `s32` (R147). Safe: the spec gives no value. -/
  | floatRange
  /-- Raised by the step when the host issues a command before the previous one has completed (R73). Safe: the spec gives
  such a command no meaning. -/
  | unserialised
  deriving DecidableEq, Repr

/-- The reasons the model gives no meaning to an instruction. -/
inductive Refusal where
  /-- Raised by an arm of exec whose instruction has no meaning yet; no arm raises it now. Safe: the run stops. -/
  | notModelled (mnemonic : String)
  deriving DecidableEq, Repr

/-- The outcome of an operation (00_scope.md section 5, Outcomes). -/
abbrev StepOutcome := Host.Outcome State Fault Refusal

/-- Power-on (R35, R231, R271): `configured` is false. The spec gives every other element no value; the model gives each
zero, and no rule reads one before INIT writes it (assumption 1). The ports are idle: nothing emitted, nothing issued. -/
def State.reset : State :=
  { configured := false
    pinData := 0
    pinClk := 0
    pinDig := Vector.replicate nDigits 0
    inBuf := Vector.replicate maxIn 0
    symBuf := Vector.replicate bufCap 0
    symLen := 0
    frame := Vector.replicate nDigits 0
    frameBak := Vector.replicate nDigits 0
    bakValid := false
    scrollActive := false
    scrollFrames := 0
    scrollIdx := 0
    scrollTs := 0
    muxIdx := 0
    muxPrev := 0
    muxTs := 0
    errActive := false
    errTs := 0
    clock := 0
    result := none
    trace := []
    pinTrace := []
    host := [] }

end Sys2Proof.Machine
end

