-- ==== Sys2Proof/Machine/Flags.lean ====
section
/-! DEFINITION. Every write of a flag (10_state.md rule R32). The block has no condition codes; no other definition writes
`configured`, `scrollActive`, `errActive` or `bakValid`. -/

namespace Sys2Proof.Machine

open Sys2Proof

/-- INIT sets `configured` (R23). -/
def setConfigured (s : State) : State := { s with configured := true }

/-- A static result clears `scroll_active` (R158); so does INIT (R230). -/
def clearScroll (s : State) : State := { s with scrollActive := false }

/-- A scrolling result sets `scroll_active` (R159). -/
def setScroll (s : State) : State := { s with scrollActive := true }

/-- SHOWERR sets `err_active` and `bak_valid` (R210, R27). -/
def setOverlay (s : State) : State := { s with errActive := true, bakValid := true }

/-- The error restore and INIT clear `err_active` and `bak_valid` (R185, R230). -/
def clearOverlay (s : State) : State := { s with errActive := false, bakValid := false }

end Sys2Proof.Machine
end

