-- ==== Sys2Proof/Machine/Ops.lean ====
section
/-! DEFINITION. The shared operations: reads and writes of the internal stores, the ports, the timers' comparison, and the
two ways a condition is handled. The block has no trap (R250, R257): a reportable condition is absorbed by `report` and the
operation goes on; a fault of R253 is raised by `raise` and the run ends. There is nothing to enter and nothing to return
from. -/

namespace Sys2Proof.Machine

open Sys2Proof

/-- `MemRead(store, i)` on a store of SegmentCodes (00_scope.md section 5). Every index a rule computes is inside its store
(R67); outside it the value is free (assumption 9). -/
def memRead {n : Nat} (store : Vector Seg n) (i : Nat) : Seg :=
  (store[i]?).getD (Config.outsideStore i)

/-- `MemWrite(store, start + k, values[k])` for every `k`: consecutive writes of a loop `for k`. Entries outside the written
range keep their values. -/
def memWrite {α : Type} {n : Nat} (store : Vector α n) (start : Nat) (values : List α) : Vector α n :=
  Vector.ofFn fun i =>
    if start ≤ i.val then (values[i.val - start]?).getD store[i] else store[i]

/-- The bits of a SegmentCode in serial order, least significant first (R65). -/
def serialBits (code : Seg) : List Bool :=
  (List.range 8).map fun k => code.getLsbD k

/-- What an event does on the pins (R64, R65): a digit event drives its digit's line, a shift-out puts each bit on the data
line and pulses the clock line, a report drives nothing (R252). -/
def pinActions (s : State) : Event → List PinAction
  | .digitEnable i on => [.digitLine s.pinDig[i] on]
  | .shiftOut code => (serialBits code).flatMap fun bit => [.dataLine s.pinData bit, .clockPulse s.pinClk]
  | .diag _ _ => []

/-- `Emit(e)` (R63): the event joins the end of the trace, and its pin actions the end of theirs. -/
def emit (e : Event) (s : State) : State :=
  { s with trace := s.trace ++ [e], pinTrace := s.pinTrace ++ pinActions s e }

/-- Emits several events in order. -/
def emitAll (es : List Event) (s : State) : State :=
  es.foldl (fun s e => emit e s) s

/-- A report on the diagnostic channel (R252): an event, and no state. -/
def report (kind : DiagKind) (info : Nat) (s : State) : State :=
  emit (.diag kind info) s

/-- `raise Fault(reason)` (R253): the operation ends without a next state. -/
def raise (reason : Fault) : StepOutcome := .fault reason

/-- The `configured` check, the first thing an operation that has it does (R233, R255). -/
def whenConfigured (s : State) (k : StepOutcome) : StepOutcome :=
  if s.configured then k else raise .notConfigured

/-- `ClockRead()` (R77, R256): the value on the clock port; reading it has no side effect (R69). -/
def clockRead (s : State) : Word := s.clock

/-- `Elapsed(now, ts) = (now - ts) mod 2^32` (R182). -/
def elapsed (now ts : Word) : Word := now - ts

/-- A timer check (R182): `Elapsed(now, ts) ≥ interval`, unsigned. -/
def due (now ts interval : Word) : Bool := interval ≤ elapsed now ts

/-- The result port takes the value an operation returns (R90). -/
def returnResult (r : Result) (s : State) : State := { s with result := some r }

/-- The host issues its next command: the command leaves the host's list, its clock value stands on the clock port, and the
result port is empty until the command returns a value (R86, R90; assumption 5). -/
def issue (now : Word) (rest : List HostInput) (s : State) : State :=
  { s with host := rest, clock := now, result := none }

end Sys2Proof.Machine
end

