-- ==== Sys2Proof/Machine/Operands.lean ====
section
/-! DEFINITION. Operand decoding (30_encoding.md rule R89). -/

namespace Sys2Proof.Machine

open Sys2Proof

/-- SHOWI's `A` as `s32`, two's complement. -/
def operandS32 (a : Word) : Int := a.toInt

/-- SHOWH's `A` as `u32`. -/
def operandU32 (a : Word) : Nat := a.toNat

/-- SHOWF's `decimalPlaces = zext(B)`. -/
def operandPlaces (b : Byte) : Nat := b.toNat

/-- ENCODE's `B`, a character. -/
def operandChar (b : Byte) : CharCode := b

/-- ADDDP's `B`, a SegmentCode. -/
def operandSeg (b : Byte) : Seg := b

/-- A non-negative binary32 magnitude `mant * 2^exp`. -/
structure Magnitude where
  mant : Nat
  exp : Int
  deriving DecidableEq, Repr

/-- Sign bit of a binary32 pattern: `A[31]`. -/
def floatSign (a : Word) : Bool := a.getLsbD 31

/-- Biased exponent of a binary32 pattern: `A[30:23]`. -/
def floatExponent (a : Word) : Nat := (a.extractLsb 30 23).toNat

/-- Fraction of a binary32 pattern: `A[22:0]`. -/
def floatFraction (a : Word) : Nat := (a.extractLsb 22 0).toNat

/-- The magnitude of a finite binary32 pattern; `none` for a NaN or an infinity (R89; IEEE 754 binary32). -/
def floatMagnitude (a : Word) : Option Magnitude :=
  let e := floatExponent a
  let f := floatFraction a
  if e = 255 then none
  else if e = 0 then some { mant := f, exp := -149 }
  else some { mant := 2 ^ 23 + f, exp := (e : Int) - 150 }

end Sys2Proof.Machine
end

