-- ==== Sys2Proof/Machine/Float.lean ====
section
/-! DEFINITION. The default `FSCALE` of SHOWF (41_display_update.md rule R147): binary32 arithmetic, rounded to nearest with
ties to even, then truncated toward zero. Reals are exact quotients of natural numbers here; nothing is approximated before
the rounding. -/

namespace Sys2Proof.Machine

open Sys2Proof

/-- The exponent of the binade of `num / den`: the largest `e` with `2^e ≤ num / den`, for positive `num` and `den`. -/
def binade (num den : Nat) : Int :=
  let g : Int := (num.log2 : Int) - den.log2
  if den * 2 ^ g.toNat ≤ num * 2 ^ (-g).toNat then g else g - 1

/-- The exponent of one unit in the last place of a binary32 value in that binade; `-149` for the subnormal range. -/
def ulpExponent (num den : Nat) : Int := max (binade num den - 23) (-149)

/-- `num / den` rounded to the nearest natural number, ties to even. -/
def roundHalfEven (num den : Nat) : Nat :=
  let k := num / den
  let r := num % den
  if den < 2 * r ∨ (2 * r = den ∧ k % 2 = 1) then k + 1 else k

/-- `RNE32(num / den)` (R147): the nearest binary32 value, ties to even; `none` is the infinity of an overflow, a result of
`2^128` or more. -/
def rne32 (num den : Nat) : Option Magnitude :=
  let q := ulpExponent num den
  let k := roundHalfEven (num * 2 ^ (-q).toNat) (den * 2 ^ q.toNat)
  if 2 ^ 128 * 2 ^ (-q).toNat ≤ k * 2 ^ q.toNat then none else some { mant := k, exp := q }

/-- `RNE32` of the product of two binary32 magnitudes. -/
def mulRne32 (x y : Magnitude) : Option Magnitude :=
  let e := x.exp + y.exp
  rne32 (x.mant * y.mant * 2 ^ e.toNat) (2 ^ (-e).toNat)

/-- The integer part of a magnitude: truncation of the value. -/
def truncMagnitude (x : Magnitude) : Nat := x.mant * 2 ^ x.exp.toNat / 2 ^ (-x.exp).toNat

/-- An integer as `s32`, where it is one (R147 step 5). -/
def narrowS32 (v : Int) : Option Word :=
  if -2 ^ 31 ≤ v ∧ v ≤ 2 ^ 31 - 1 then some (BitVec.ofInt 32 v) else none

/-- `trunc(q)` of a signed magnitude (R147 step 4, R148): toward zero for both signs. -/
def signedTrunc (neg : Bool) (q : Magnitude) : Int :=
  if neg then -(truncMagnitude q : Int) else truncMagnitude q

/-- The default `FSCALE(x, dp)` (R147), step by step; `none` where a step raises FLOAT_RANGE. A `10^dp` that rounds to
infinity makes the product infinite or, for `x = 0`, a NaN: not finite either way (R162's corner case `dp = 39`). -/
def fscaleDefault (a : Word) (b : Byte) : Option Word := do
  let x ← floatMagnitude a
  let scale ← rne32 (10 ^ operandPlaces b) 1
  let q ← mulRne32 scale x
  narrowS32 (signedTrunc (floatSign a) q)

end Sys2Proof.Machine
end

