-- ==== Sys2Proof/Machine/Parameters.lean ====
section
/-! DEFINITION. The values this hardware gives the parameters of `Params` (spec/00_scope.md, the parameter table). -/

namespace Sys2Proof.Machine

open Sys2Proof

/-- `SEG_BIT` (R81): segments a to g on bits 0 to 6. -/
def hardwareSegBit : Segment → Fin 8
  | .a => 0
  | .b => 1
  | .c => 2
  | .d => 3
  | .e => 4
  | .f => 5
  | .g => 6

/-- The lit segments of the digit glyphs (R112). -/
def hardwareDigitGlyph (n : Fin 10) : List Segment :=
  match n with
  | 0 => [.a, .b, .c, .d, .e, .f]
  | 1 => [.b, .c]
  | 2 => [.a, .b, .d, .e, .g]
  | 3 => [.a, .b, .c, .d, .g]
  | 4 => [.b, .c, .f, .g]
  | 5 => [.a, .c, .d, .f, .g]
  | 6 => [.a, .c, .d, .e, .f, .g]
  | 7 => [.a, .b, .c]
  | 8 => [.a, .b, .c, .d, .e, .f, .g]
  | 9 => [.a, .b, .c, .d, .f, .g]

/-- `GLYPH` (R112): the segments lit for each base symbol. -/
def hardwareGlyph : Symbol → List Segment
  | .digit n => hardwareDigitGlyph n
  | .letterA => [.a, .b, .c, .e, .f, .g]
  | .letterB => [.c, .d, .e, .f, .g]
  | .letterC => [.a, .d, .e, .f]
  | .letterD => [.b, .c, .d, .e, .g]
  | .letterE => [.a, .d, .e, .f, .g]
  | .letterF => [.a, .e, .f, .g]
  | .letterR => [.e, .g]
  | .hyphen => [.g]
  | .blank => []

/-- `DOT_ALIAS` (R84, R113). -/
def hardwareDotAlias (n : Fin 10) : CharCode :=
  match n with
  | 0 => 0x29
  | 1 => 0x21
  | 2 => 0x40
  | 3 => 0x23
  | 4 => 0x24
  | 5 => 0x25
  | 6 => 0x5E
  | 7 => 0x26
  | 8 => 0x2A
  | 9 => 0x28

/-- This hardware's parameters. -/
def hardware : Params :=
  { segBit := hardwareSegBit
    dpBit := 7
    glyph := hardwareGlyph
    dotAlias := hardwareDotAlias
    refreshMs := 4
    scrollMs := 300
    errorMs := 1000
    initFrame := #v[0x00, 0x00, 0x00, 0x00]
    fscale := fscaleDefault }

end Sys2Proof.Machine
end

