-- ==== Sys2Proof/Machine/Control.lean ====
section
/-! DEFINITION. INIT and the undefined opcodes (44_control.md). -/

namespace Sys2Proof.Machine

open Sys2Proof

/-- INIT's pin roles (R22, R230). -/
def setPins (p0 p1 p2 p3 p4 p5 : Byte) (s : State) : State :=
  { s with pinData := p0, pinClk := p1, pinDig := #v[p2, p3, p4, p5] }

/-- The events of INIT (R230): every digit disabled, in index order. -/
def initEvents : List Event := (List.finRange nDigits).map fun i => .digitEnable i false

/-- INIT's buffers and frame (R230): empty text, empty symbols, `INIT_FRAME`. The entries after the terminators and the
backup are not written. -/
def initBuffers (p : Params) (s : State) : State :=
  { s with
    inBuf := memWrite s.inBuf 0 [0x00#8]
    symBuf := memWrite s.symBuf 0 [0x00#8]
    symLen := 0
    frame := p.initFrame }

/-- INIT's scroll, multiplex and overlay fields (R230). -/
def initTimers (s : State) : State :=
  { s with
    scrollFrames := 0, scrollIdx := 0, scrollTs := 0
    muxIdx := 0, muxPrev := 0, muxTs := 0
    errTs := 0 }

/-- INIT (R230) for any parameters, in the order of its pseudocode: the pins first, so that the disable events drive the new
digit pins. -/
def initWith (p : Params) (p0 p1 p2 p3 p4 p5 : Byte) (s : State) : State :=
  let s := setPins p0 p1 p2 p3 p4 p5 s
  let s := emitAll initEvents s
  setConfigured (clearOverlay (clearScroll (initTimers (initBuffers p s))))

/-- INIT (R230): it may be issued at any time (D28) and checks nothing. -/
def execInit (p0 p1 p2 p3 p4 p5 : Byte) (s : State) : StepOutcome :=
  .next (initWith hardware p0 p1 p2 p3 p4 p5 s)

/-- An undefined opcode (R234): reported, no state written, no `configured` check. -/
def execUndefined (op : Byte) (s : State) : StepOutcome :=
  .next (report .undefinedOpcode op.toNat s)

end Sys2Proof.Machine
end

