-- ==== Sys2Proof/Machine/Encoder.lean ====
section
/-! DEFINITION. The symbol encoder ROM and the operations that reach it from the host: ENCODE and ADDDP
(40_symbol_encoder.md). -/

namespace Sys2Proof.Machine

open Sys2Proof

/-- `AddDP(x)` (R117, R118): clears the decimal-point bit, `x & ~(1 << DP_BIT)`. -/
def addDP (p : Params) (x : Seg) : Seg := x &&& ~~~(1#8 <<< p.dpBit.val)

/-- The code of a base symbol (R112): `0xFF` with the bit of every lit segment cleared. -/
def glyphCode (p : Params) (sym : Symbol) : Seg :=
  (p.glyph sym).foldl (fun code seg => code &&& ~~~(1#8 <<< (p.segBit seg).val)) 0xFF#8

/-- The base symbol of a character (R84, R112), letters in either case (R115); `none` for a dot alias and for a character
outside the whitelist. -/
def baseSymbol (c : CharCode) : Option Symbol :=
  if 0x30#8 ≤ c ∧ c ≤ 0x39#8 then some (.digit (Fin.ofNat 10 (c - 0x30#8).toNat))
  else if c = 0x20#8 then some .blank
  else if c = 0x2D#8 then some .hyphen
  else if c = 0x41#8 ∨ c = 0x61#8 then some .letterA
  else if c = 0x42#8 ∨ c = 0x62#8 then some .letterB
  else if c = 0x43#8 ∨ c = 0x63#8 then some .letterC
  else if c = 0x44#8 ∨ c = 0x64#8 then some .letterD
  else if c = 0x45#8 ∨ c = 0x65#8 then some .letterE
  else if c = 0x46#8 ∨ c = 0x66#8 then some .letterF
  else if c = 0x52#8 ∨ c = 0x72#8 then some .letterR
  else none

/-- The digit a dot-alias character stands for (R113). -/
def aliasDigit (p : Params) (c : CharCode) : Option (Fin 10) :=
  (List.finRange 10).find? fun n => p.dotAlias n == c

/-- One entry of the encoder ROM (R111). -/
structure RomEntry where
  code : Seg
  ok : Bool
  deriving DecidableEq, Repr

/-- The fallback code: the "zero" pattern (R114). -/
def fallbackCode (p : Params) : Seg := glyphCode p (.digit 0)

/-- `ROM[c]`, the 256-entry encoder ROM (R111 to R115). -/
def rom (p : Params) (c : CharCode) : RomEntry :=
  match baseSymbol c with
  | some sym => { code := glyphCode p sym, ok := true }
  | none =>
    match aliasDigit p c with
    | some n => { code := addDP p (glyphCode p (.digit n)), ok := true }
    | none => { code := fallbackCode p, ok := false }

/-- `BLANK` (R154): the code of the space character. -/
def blankCode (p : Params) : Seg := (rom p 0x20#8).code

/-- The report of a lookup (R110): a lookup with `ok = false` reports the character. -/
def reportLookup (p : Params) (c : CharCode) (s : State) : State :=
  if (rom p c).ok then s else report .unsupportedChar c.toNat s

/-- ENCODE (R116) for any parameters. -/
def encodeWith (p : Params) (b : Byte) (s : State) : State :=
  let c := operandChar b
  returnResult (.encoded (rom p c).code (rom p c).ok) (reportLookup p c s)

/-- ADDDP (R117) for any parameters. -/
def adddpWith (p : Params) (b : Byte) (s : State) : State :=
  returnResult (.code (addDP p (operandSeg b))) s

/-- ENCODE (R116): no `configured` check (R233). -/
def execEncode (b : CharCode) (s : State) : StepOutcome := .next (encodeWith hardware b s)

/-- ADDDP (R117): no `configured` check (R233). -/
def execAdddp (b : Seg) (s : State) : StepOutcome := .next (adddpWith hardware b s)

end Sys2Proof.Machine
end

