-- ==== Sys2Proof/Machine/Loop.lean ====
section
/-! DEFINITION. STEP, the multiplex timing controller (42_loop_step.md). -/

namespace Sys2Proof.Machine

open Sys2Proof

/-- `MuxSwitch(now)` (R183): disable the previous digit, advance, enable the new one, push its CurrentFrame entry. At most one
switch happens, and `mux_ts` becomes `now`. -/
def muxSwitch (p : Params) (now : Word) (s : State) : State :=
  if due now s.muxTs p.refreshMs then
    let s := emit (.digitEnable s.muxPrev false) s
    let s := { s with muxIdx := s.muxIdx + 1 }
    let s := emit (.digitEnable s.muxIdx true) s
    let s := emit (.shiftOut s.frame[s.muxIdx]) s
    { s with muxPrev := s.muxIdx, muxTs := now }
  else s

/-- `ErrorExpiry(now)` (R185): restores the saved frame once the overlay's duration has passed. -/
def errorExpiry (p : Params) (now : Word) (s : State) : State :=
  if due now s.errTs p.errorMs then clearOverlay { s with frame := s.frameBak } else s

/-- Window `k` of the scroll sequence: `sym_buf[k .. k+N)` (R160). -/
def scrollWindow (symBuf : Vector Seg bufCap) (k : Nat) : Frame :=
  Vector.ofFn fun j => memRead symBuf (k + j.val)

/-- `scroll_idx + 1`, back to 0 at the frame count (R186). -/
def nextScrollIdx (idx frames : Byte) : Byte := if idx + 1 = frames then 0 else idx + 1

/-- `ScrollAdvance(now)` (R186): copies the window at `scroll_idx`, then advances the index. -/
def scrollAdvance (p : Params) (now : Word) (s : State) : State :=
  if due now s.scrollTs p.scrollMs then
    { s with
      frame := scrollWindow s.symBuf s.scrollIdx.toNat
      scrollTs := now
      scrollIdx := nextScrollIdx s.scrollIdx s.scrollFrames }
  else s

/-- The second part of STEP (R184): exactly one of the error expiry and the scroll advance, or neither. -/
def overlayOrScroll (p : Params) (now : Word) (s : State) : State :=
  if s.errActive then errorExpiry p now s
  else if s.scrollActive then scrollAdvance p now s
  else s

/-- STEP (R180) for any parameters: one sample of the clock serves every check (R181). -/
def stepWith (p : Params) (s : State) : StepOutcome :=
  whenConfigured s <|
    let now := clockRead s
    .next (overlayOrScroll p now (muxSwitch p now s))

/-- STEP (R180). -/
def execStep (s : State) : StepOutcome := stepWith hardware s

end Sys2Proof.Machine
end

