-- ==== Sys2Proof/Machine/Overlay.lean ====
section
/-! DEFINITION. SHOWERR, the error overlay (43_error_overlay.md). Its expiry belongs to STEP. -/

namespace Sys2Proof.Machine

open Sys2Proof

/-- `ERR_PATTERN` (R211): the codes of the text `"Err "`, left to right. -/
def errPattern (p : Params) : Frame :=
  #v[(rom p 0x45#8).code, (rom p 0x72#8).code, (rom p 0x72#8).code, (rom p 0x20#8).code]

/-- The overlay begins (R210): the snapshot, the pattern, the timestamp and the flags, whether or not one is active (R212). -/
def beginOverlay (p : Params) (now : Word) (s : State) : State :=
  setOverlay { s with frameBak := s.frame, frame := errPattern p, errTs := now }

/-- SHOWERR (R210) for any parameters. -/
def showerrWith (p : Params) (s : State) : StepOutcome :=
  whenConfigured s (.next (beginOverlay p (clockRead s) s))

/-- SHOWERR (R210). -/
def execShowerr (s : State) : StepOutcome := showerrWith hardware s

end Sys2Proof.Machine
end

