-- ==== Sys2Proof/Machine/Text.lean ====
section
/-! DEFINITION. The texts of the formatter (41_display_update.md rules R143 to R145). -/

namespace Sys2Proof.Machine

open Sys2Proof

/-- The base-`b` digits of `n`, most significant first, with no leading zero; at most `fuel` digits. -/
def digitsOf (b : Nat) : Nat → Nat → List Nat
  | 0, _ => []
  | fuel + 1, n => if n < b then [n] else digitsOf b fuel (n / b) ++ [n % b]

/-- The minimal base-`b` digits of `n`: `n` has at most `log2 n + 1` digits in any base from 2 on. -/
def minimalDigits (b n : Nat) : List Nat := digitsOf b (n.log2 + 1) n

/-- The character of a digit value: `0` to `9`, then the lower-case letters `a` to `f` (R143, R145). -/
def digitChar (d : Nat) : CharCode :=
  if d < 10 then BitVec.ofNat 8 (0x30 + d) else BitVec.ofNat 8 (0x61 + (d - 10))

/-- The hyphen, `0x2D` (R143). -/
def hyphenChar : CharCode := 0x2D#8

/-- `DecText(v)` (R143): the minimal signed decimal text. -/
def decText (v : Int) : List CharCode :=
  if v < 0 then hyphenChar :: (minimalDigits 10 v.natAbs).map digitChar
  else (minimalDigits 10 v.natAbs).map digitChar

/-- `HexText(v)` (R145): the minimal base-16 text, lower-case, no prefix. -/
def hexText (v : Nat) : List CharCode := (minimalDigits 16 v).map digitChar

end Sys2Proof.Machine
end

