-- ==== Sys2Proof/Machine/Formatter.lean ====
section
/-! DEFINITION. The pipeline that SHOWI, SHOWF and SHOWH share (41_display_update.md sections 1 to 3): text into InputBuffer,
InputBuffer into SymbolBuffer, the decimal point, then a static frame or a scroll sequence. -/

namespace Sys2Proof.Machine

open Sys2Proof

/-- The characters of a text that a buffer of `m` characters keeps (R142): the first `m - 1`. -/
def keptText (m : Nat) (t : List CharCode) : List CharCode := t.take (m - 1)

/-- `WriteInputBuffer(t)` on a buffer of any size (R142): the kept characters and the terminator. -/
def writeText {m : Nat} (buf : Vector CharCode m) (t : List CharCode) : Vector CharCode m :=
  memWrite buf 0 (keptText m t ++ [0x00#8])

/-- The reports of `WriteInputBuffer(t)` on a buffer of `m` characters (R142): one overflow report when the text does not fit. -/
def overflowEvents (m : Nat) (t : List CharCode) : List Event :=
  if t.length ≤ m - 1 then [] else [.diag .formatOverflow t.length]

/-- `WriteInputBuffer(t)` (R142). -/
def writeInputBuffer (t : List CharCode) (s : State) : State :=
  emitAll (overflowEvents maxIn t) { s with inBuf := writeText s.inBuf t }

/-- The characters before the first terminator of a buffer. -/
def textOf {m : Nat} (buf : Vector CharCode m) : List CharCode :=
  buf.toList.takeWhile fun c => c != 0x00#8

/-- `RenderedLength()` (R141): found by scanning for the terminator. -/
def renderedLength (s : State) : Nat := (textOf s.inBuf).length

/-- The lookups of `BuildSymbolBuffer` report in character order (R149, R255). -/
def reportLookups (p : Params) (cs : List CharCode) (s : State) : State :=
  cs.foldl (fun s c => reportLookup p c s) s

/-- `BuildSymbolBuffer(L)` (R149): encodes the first `L` characters of InputBuffer and appends the terminator. -/
def buildSymbolBuffer (p : Params) (len : Nat) (s : State) : State :=
  let cs := s.inBuf.toList.take len
  let s := reportLookups p cs s
  { s with
    symBuf := memWrite s.symBuf 0 (cs.map (fun c => (rom p c).code) ++ [0x00#8])
    symLen := BitVec.ofNat 8 len }

/-- `ApplyPoint(p)` (R152, R153): lights the point of SymbolBuffer entry `point` when that lies inside the text. -/
def applyPoint (p : Params) (point : Int) (len : Nat) (s : State) : State :=
  if 0 ≤ point ∧ point < len then
    { s with symBuf := memWrite s.symBuf point.toNat [addDP p (memRead s.symBuf point.toNat)] }
  else s

/-- The static frame of a SymbolBuffer of `L` codes (R157): right-aligned, padded with blanks on the left. -/
def staticFrame (p : Params) (len : Nat) (symBuf : Vector Seg bufCap) : Frame :=
  Vector.ofFn fun j => if j.val < nDigits - len then blankCode p else memRead symBuf (j.val - (nDigits - len))

/-- `BuildStatic(L)` (R157, R158). -/
def buildStatic (p : Params) (len : Nat) (s : State) : State :=
  clearScroll { s with frame := staticFrame p len s.symBuf }

/-- The padded scroll sequence of some codes (R159): `N-1` blanks before, `N` blanks after. -/
def scrollSequence (p : Params) (codes : List Seg) : List Seg :=
  List.replicate (nDigits - 1) (blankCode p) ++ codes ++ List.replicate nDigits (blankCode p)

/-- `BuildScroll(L)` (R159): neither CurrentFrame nor `scroll_ts` is written. -/
def buildScroll (p : Params) (len : Nat) (s : State) : State :=
  let seq := scrollSequence p (s.symBuf.toList.take len)
  setScroll
    { s with
      symBuf := memWrite s.symBuf 0 (seq ++ [0x00#8])
      symLen := BitVec.ofNat 8 seq.length
      scrollFrames := BitVec.ofNat 8 (seq.length - nDigits + 1)
      scrollIdx := 0 }

/-- `SelectPresentation(L)` (R155): scrolling when `L > N`, static when `L ≤ N`. -/
def selectPresentation (p : Params) (len : Nat) (s : State) : State :=
  if nDigits < len then buildScroll p len s else buildStatic p len s

/-- Steps 3 to 7 of R140 for a text, with the decimal places of SHOWF or with no point (R151). -/
def showText (p : Params) (t : List CharCode) (places : Option Nat) (s : State) : State :=
  let s := writeInputBuffer t s
  let len := renderedLength s
  let s := buildSymbolBuffer p len s
  let s :=
    match places with
    | none => s
    | some dp => applyPoint p ((len : Int) - 1 - dp) len s
  selectPresentation p len s

end Sys2Proof.Machine
end

