-- ==== Sys2Proof/Machine/Show.lean ====
section
/-! DEFINITION. SHOWI, SHOWF, SHOWH and SHOWRSV (41_display_update.md section 4). None of them reads the clock or touches the
multiplex or overlay state (R140, R165). -/

namespace Sys2Proof.Machine

open Sys2Proof

/-- SHOWI (R161) for any parameters. -/
def showiWith (p : Params) (a : Word) (s : State) : StepOutcome :=
  whenConfigured s (.next (showText p (decText (operandS32 a)) none s))

/-- SHOWF (R162) for any parameters; FLOAT_RANGE is checked before anything is written (R255). -/
def showfWith (p : Params) (a : Word) (b : Byte) (s : State) : StepOutcome :=
  whenConfigured s <|
    match p.fscale a b with
    | none => raise .floatRange
    | some v => .next (showText p (decText (operandS32 v)) (some (operandPlaces b)) s)

/-- SHOWH (R163) for any parameters. -/
def showhWith (p : Params) (a : Word) (s : State) : StepOutcome :=
  whenConfigured s (.next (showText p (hexText (operandU32 a)) none s))

/-- The reserved format selector `fs = 11` (R87, R91). -/
def reservedSelector : Nat := 3

/-- SHOWI (R161). -/
def execShowi (a : Word) (s : State) : StepOutcome := showiWith hardware a s

/-- SHOWF (R162). -/
def execShowf (a : Word) (b : Byte) (s : State) : StepOutcome := showfWith hardware a b s

/-- SHOWH (R163). -/
def execShowh (a : Word) (s : State) : StepOutcome := showhWith hardware a s

/-- SHOWRSV (R164): reports the selector and writes no state; the operands are not read. -/
def execShowrsv (_a : Word) (_b : Byte) (s : State) : StepOutcome :=
  whenConfigured s (.next (report .unknownSelector reservedSelector s))

end Sys2Proof.Machine
end

