-- ==== Sys2Proof/Machine/Dispatch.lean ====
section
/-! DEFINITION. The dispatch: one arm per operation of spec/opcode_table.json. -/

namespace Sys2Proof.Machine

open Sys2Proof

def exec (i : Instr) (s : State) : Host.Outcome State Fault Refusal :=
  match i with
  | .init p0 p1 p2 p3 p4 p5 => Sys2Proof.Machine.execInit p0 p1 p2 p3 p4 p5 s
  | .step => Sys2Proof.Machine.execStep s
  | .showi a => Sys2Proof.Machine.execShowi a s
  | .showf a b => Sys2Proof.Machine.execShowf a b s
  | .showh a => Sys2Proof.Machine.execShowh a s
  | .showrsv a b => Sys2Proof.Machine.execShowrsv a b s
  | .showerr => Sys2Proof.Machine.execShowerr s
  | .encode b => Sys2Proof.Machine.execEncode b s
  | .adddp b => Sys2Proof.Machine.execAdddp b s

end Sys2Proof.Machine
end

