-- ==== Sys2Proof/Machine/Step.lean ====
section
/-! DEFINITION. One step of the machine: the host issues its next command and the block runs it to completion (R68, R72, R86).
With nothing issued the block does nothing (R262). -/

namespace Sys2Proof.Machine

open Sys2Proof

/-- The command on the ports runs to completion: an operation of the map, or an undefined opcode (R88, R234). -/
def runCommand (c : Command) (s : State) : Host.Outcome State Fault Refusal :=
  match decode c with
  | .instr i => exec i s
  | .undefined op => execUndefined op s

/-- One step. A command issued before the previous one has completed faults (R73); otherwise it is issued and run. -/
def step (s : State) : Host.Outcome State Fault Refusal :=
  match s.host with
  | [] => .next s
  | input :: rest =>
    if input.overlaps then raise .unserialised
    else runCommand input.cmd (issue input.now rest s)

/-- `s` with the command that a number stands for as the next one the host issues, in order and at the clock value that
already stands on the clock port (assumption 3). -/
def State.withFetchWord (s : State) (nbits w : Nat) : State :=
  { s with host := { cmd := Command.ofBits (w % 2 ^ nbits), now := s.clock, overlaps := false } :: s.host }

end Sys2Proof.Machine
end

