-- ==== Sys2Proof/Machine/Assembler.lean ====
section
/-! DEFINITION. The text form of a command (30_encoding.md rule R93): a mnemonic or an API name, operands separated by commas,
and a trailing `; now=T` comment. The block itself reads ports, not text; nothing in the step uses this file. -/

namespace Sys2Proof.Machine

open Sys2Proof

/-- The binary32 pattern of a magnitude that `rne32` gave, with a sign (R89's field layout). -/
def floatPattern (neg : Bool) (m : Option Magnitude) : Word :=
  let bits : Nat :=
    match m with
    | none => 255 * 2 ^ 23
    | some m =>
      if m.mant < 2 ^ 23 then m.mant
      else if m.mant = 2 ^ 24 then (m.exp + 151).toNat * 2 ^ 23
      else (m.exp + 150).toNat * 2 ^ 23 + (m.mant - 2 ^ 23)
  BitVec.ofNat 32 ((if neg then 2 ^ 31 else 0) + bits)

/-- The value of a decimal digit character. -/
def decDigit (c : Char) : Option Nat :=
  if '0' ≤ c ∧ c ≤ '9' then some (c.toNat - '0'.toNat) else none

/-- The value of a hex digit character. -/
def hexDigit (c : Char) : Option Nat :=
  if 'a' ≤ c ∧ c ≤ 'f' then some (c.toNat - 'a'.toNat + 10)
  else if 'A' ≤ c ∧ c ≤ 'F' then some (c.toNat - 'A'.toNat + 10)
  else decDigit c

/-- Digits in a base, most significant first, onto an accumulator. -/
def digitsValue (base : Nat) (digit : Char → Option Nat) : Nat → List Char → Option Nat
  | acc, [] => some acc
  | acc, c :: cs =>
    match digit c with
    | some d => digitsValue base digit (acc * base + d) cs
    | none => none

/-- A non-empty decimal numeral. -/
def parseDec (cs : List Char) : Option Nat := if cs.isEmpty then none else digitsValue 10 decDigit 0 cs

/-- A decimal or `0x` hex numeral below a bound. -/
def parseNat (bound : Nat) (cs : List Char) : Option Nat :=
  let v :=
    match cs with
    | '0' :: 'x' :: h => if h.isEmpty then none else digitsValue 16 hexDigit 0 h
    | _ => parseDec cs
  v.filter fun n => n < bound

/-- A `0xHH` byte. -/
def parseHexByte (cs : List Char) : Option Byte :=
  match cs with
  | '0' :: 'x' :: _ => (parseNat 256 cs).map (BitVec.ofNat 8)
  | _ => none

/-- A `u8` operand. -/
def parseByte (cs : List Char) : Option Byte := (parseNat 256 cs).map (BitVec.ofNat 8)

/-- A decimal `u8` operand. -/
def parseDecByte (cs : List Char) : Option Byte := ((parseDec cs).filter fun n => n < 256).map (BitVec.ofNat 8)

/-- An optional minus sign. -/
def splitSign : List Char → Bool × List Char
  | '-' :: cs => (true, cs)
  | cs => (false, cs)

/-- SHOWI's operand: a decimal integer in the `s32` range. -/
def parseS32 (cs : List Char) : Option Word :=
  let (neg, ds) := splitSign cs
  (parseDec ds).bind fun n => narrowS32 (if neg then -(n : Int) else n)

/-- A decimal float literal, the binary32 value nearest to it, ties to even. -/
def parseFloat (cs : List Char) : Option Word :=
  let (neg, ds) := splitSign cs
  let whole := ds.takeWhile fun c => c != '.'
  let frac := (ds.dropWhile fun c => c != '.').drop 1
  (parseDec (whole ++ frac)).map fun n => floatPattern neg (rne32 n (10 ^ frac.length))

/-- ENCODE's operand: a quoted character or a character code. -/
def parseChar (cs : List Char) : Option CharCode :=
  match cs with
  | ['\'', c, '\''] => if c.toNat < 256 then some (BitVec.ofNat 8 c.toNat) else none
  | _ => parseHexByte cs

/-- Spaces removed at both ends. -/
def trim (cs : List Char) : List Char :=
  ((cs.dropWhile fun c => c == ' ').reverse.dropWhile fun c => c == ' ').reverse

/-- The text before and after the comment sign; a quoted character is passed over whole. -/
def splitComment : List Char → List Char × List Char
  | '\'' :: c :: '\'' :: cs => let (a, b) := splitComment cs; ('\'' :: c :: '\'' :: a, b)
  | ';' :: cs => ([], cs)
  | c :: cs => let (a, b) := splitComment cs; (c :: a, b)
  | [] => ([], [])

/-- Operands separated by commas, each trimmed; no operand at all for an empty text. -/
def splitOperands (cs : List Char) : List (List Char) :=
  if (trim cs).isEmpty then [] else (cs.splitOn ',').map trim

/-- A mnemonic or API name and its operands, as an operation. -/
def assembleOperation (name : List Char) (rest : List Char) : Option Instr :=
  let ops := splitOperands rest
  if name = "INIT".toList ∨ name = "init".toList then
    match ops.mapM parseByte with
    | some [p0, p1, p2, p3, p4, p5] => some (.init p0 p1 p2 p3 p4 p5)
    | _ => none
  else if name = "STEP".toList ∨ name = "runLoopStep".toList then
    if ops.isEmpty then some .step else none
  else if name = "SHOWI".toList ∨ name = "showInt".toList then
    match ops with
    | [v] => (parseS32 v).map .showi
    | _ => none
  else if name = "SHOWF".toList ∨ name = "showFloat".toList then
    match ops with
    | [x, n] => (parseFloat x).bind fun a => (parseDecByte n).map fun b => .showf a b
    | _ => none
  else if name = "SHOWH".toList ∨ name = "showHex".toList then
    match ops with
    | [v] => (parseNat (2 ^ 32) v).map fun n => .showh (BitVec.ofNat 32 n)
    | _ => none
  else if name = "SHOWRSV".toList then
    match ops with
    | [x, n] => (parseFloat x).bind fun a => (parseDecByte n).map fun b => .showrsv a b
    | _ => none
  else if name = "SHOWERR".toList ∨ name = "showError".toList then
    if ops.isEmpty then some .showerr else none
  else if name = "ENCODE".toList ∨ name = "encode".toList then
    (parseChar (trim rest)).map .encode
  else if name = "ADDDP".toList
      ∨ name = "addDecimalPoint".toList then
    (parseHexByte (trim rest)).map .adddp
  else none

/-- The clock value of a `now=T` comment. DESIGN CHOICE (assumption 16, safe): a second comment may follow it, as in the lines
`STEP ; now=0 ; 02` of 95_test_vectors.md P1 and P3 to P5, and is skipped; a `now=T` that is not the first comment gives none. -/
def parseNow (cs : List Char) : Option Word :=
  match trim (cs.takeWhile fun c => c != ';') with
  | 'n' :: 'o' :: 'w' :: '=' :: t => (parseNat (2 ^ 32) t).map (BitVec.ofNat 32)
  | _ => none

/-- A line of text as a command and the clock value of its comment, if it has one. -/
def assemble (line : List Char) : Option (Instr × Option Word) :=
  let (code, comment) := splitComment line
  let code := trim code
  let name := code.takeWhile fun c => c != ' '
  (assembleOperation name (code.drop name.length)).map fun i => (i, parseNow comment)

end Sys2Proof.Machine
end

