-- ==== Sys2Proof/Machine/Ports.lean ====
section
/-! DEFINITION. What the outside sees of the block's outputs: the report codes, the digits the trace has enabled, the levels on
the lines, the contents of the shift register and the segments a code lights (20_memory.md section 3, 30_encoding.md section 1,
60_exceptions.md sections 2 and 8). Nothing here writes the block's state, and no operation reads it (R34). -/

namespace Sys2Proof.Machine

open Sys2Proof

/-- The numeric code of a report kind (R251). -/
def diagCode : DiagKind → Nat
  | .unsupportedChar => 1
  | .formatOverflow => 2
  | .unknownSelector => 3
  | .undefinedOpcode => 4

/-- One event's effect on whether digit `i` is enabled (R64). -/
def enabledAfter (i : Fin nDigits) (before : Bool) : Event → Bool
  | .digitEnable j on => if j = i then on else before
  | .shiftOut _ => before
  | .diag _ _ => before

/-- Digit `i` is enabled after a trace: from its `DigitEnable(i, true)` until its next `DigitEnable(i, false)` (R64). -/
def digitEnabled (trace : List Event) (i : Fin nDigits) : Bool :=
  trace.foldl (enabledAfter i) false

/-- The code of the last `ShiftOut` of a trace; `none` while the shift register's contents are unknown
(93_implementation_defined.md U3). -/
def lastShifted : List Event → Option Seg
  | [] => none
  | .shiftOut code :: rest => some ((lastShifted rest).getD code)
  | .digitEnable _ _ :: rest => lastShifted rest
  | .diag _ _ :: rest => lastShifted rest

/-- The pin a pin action is on. -/
def actionPin : PinAction → Byte
  | .digitLine pin _ => pin
  | .dataLine pin _ => pin
  | .clockPulse pin => pin

/-- The level a pin action leaves its line at (R64, R65); a clock pulse has no level the spec gives. -/
def actionLevel : PinAction → Option Bool
  | .digitLine _ on => some (on == Config.digitOnLevel)
  | .dataLine _ bit => some bit
  | .clockPulse _ => none

/-- The edge on which the shift register samples a pin action (R65). -/
def actionSampleEdge : PinAction → Option ClockEdge
  | .clockPulse _ => some Config.shiftClkEdge
  | .digitLine _ _ => none
  | .dataLine _ _ => none

/-- The level of the line on a pin after some pin actions: what the last action on that pin left there. `none` where no action
has driven it, since the spec gives no level before that (R271). DESIGN CHOICE (assumption 12, safe): `none` as well where the
last action was a clock pulse, so also on a digit or data pin that equals the clock pin (D26 allows equal pins), since the spec
gives a pulse no resting level. -/
def lineLevel (pin : Byte) (actions : List PinAction) : Option Bool :=
  (actions.filter fun a => actionPin a == pin).getLast?.bind actionLevel

/-- The collaborator's shift register behind its two lines (R65, R66, R259): the bit that stands on the data line, and the eight
stages, stage 0 the first. -/
structure ShiftRegister where
  data : Bool
  stages : BitVec 8
  deriving DecidableEq, Repr

/-- One pin action at a shift register wired to a data pin and a clock pin: a pulse shifts the data bit into the first stage.
The data line is steady during the pulse, so the edge does not matter here. DESIGN CHOICE (assumption 13, unsafe): where INIT gave
the data or the clock pin to another role too (D26 allows equal pins), the data bit is still taken as steady through the pulse, and
the drives of a digit line on such a pin are not seen; the spec gives no line behaviour there. -/
def shiftAction (dataPin clkPin : Byte) (r : ShiftRegister) : PinAction → ShiftRegister
  | .dataLine pin bit => if pin = dataPin then { r with data := bit } else r
  | .clockPulse pin => if pin = clkPin then { r with stages := r.stages <<< 1 ||| BitVec.ofNat 8 r.data.toNat } else r
  | .digitLine _ _ => r

/-- The shift register after some pin actions. -/
def shiftActions (dataPin clkPin : Byte) (r : ShiftRegister) (actions : List PinAction) : ShiftRegister :=
  actions.foldl (shiftAction dataPin clkPin) r

/-- A segment is lit exactly when its bit of the code is 0 (R81). -/
def segmentLit (p : Params) (seg : Segment) (code : Seg) : Bool := !code.getLsbD (p.segBit seg).val

/-- The decimal point is lit exactly when its bit of the code is 0 (R81). -/
def pointLit (p : Params) (code : Seg) : Bool := !code.getLsbD p.dpBit.val

end Sys2Proof.Machine
end

