-- ==== Sys2Proof/Safety.lean ====
section
/-! DEFINITION. What the claims are stated in: the outcomes of a step as options, the invariants of 10_state.md rule R36 and
70_reset_and_hazards.md rule R276, and what a frame, a text or a run of the host is compared with. -/

namespace Sys2Proof.Safety

open Sys2Proof Sys2Proof.Machine

/-- The next state of an outcome, if it has one. -/
def nextState (o : StepOutcome) : Option State :=
  match o with
  | .next s => some s
  | .fault _ => none
  | .refused _ => none

/-- The fault of an outcome, if it is one. -/
def faultReason (o : StepOutcome) : Option Fault :=
  match o with
  | .fault r => some r
  | .next _ => none
  | .refused _ => none

/-- R36.2 and R28: while scrolling, the frame count is that of the sequence and of the text, and the index lies inside it. -/
abbrev ScrollConsistent (s : State) : Prop :=
  s.scrollActive = true →
    s.scrollFrames.toNat = s.symLen.toNat - nDigits + 1 ∧
    s.symLen.toNat = (nDigits - 1) + renderedLength s + nDigits ∧
    s.scrollIdx.toNat < s.scrollFrames.toNat

/-- R36.3 (R27): the backup is valid exactly while the overlay is active. -/
abbrev BackupConsistent (s : State) : Prop := s.bakValid = s.errActive

/-- R36.4 (R24): InputBuffer holds a terminator, so the rendered length is at most `MAX_IN - 1`. -/
abbrev TextTerminated (s : State) : Prop := renderedLength s ≤ maxIn - 1

/-- R36.5 and R25: `sym_len` leaves room for the terminator, and the terminator `0x00` stands at it. -/
abbrev SymbolsTerminated (s : State) : Prop :=
  s.symLen.toNat ≤ bufCap - 1 ∧ s.symBuf[s.symLen.toNat]? = some 0x00#8

/-- R183 and R230: between operations the previously active digit is the active one. -/
abbrev MuxSettled (s : State) : Prop := s.muxPrev = s.muxIdx

/-- The invariants of R36 with the points of R25 and R183 they rest on: they hold once the block is configured. -/
abbrev Consistent (s : State) : Prop :=
  s.configured = true →
    ScrollConsistent s ∧ BackupConsistent s ∧ TextTerminated s ∧ SymbolsTerminated s ∧ MuxSettled s

/-- R189: a digit that the trace has enabled is the previously active one, and none is enabled before the first INIT. -/
abbrev AtMostOneEnabled (s : State) : Prop :=
  ∀ i : Fin nDigits, digitEnabled s.trace i = true → s.configured = true ∧ i = s.muxPrev

/-- R276: exactly one digit is enabled, the active one. -/
abbrev ExactlyOneEnabled (s : State) : Prop :=
  ∀ i : Fin nDigits, digitEnabled s.trace i = true ↔ i = s.muxIdx

/-- The safety condition of a state: both invariants. -/
abbrev Safe (s : State) : Prop := Consistent s ∧ AtMostOneEnabled s

/-- A frame of codes right-aligned and padded on the left with blanks (R157). -/
def rightAligned (codes : List Seg) : Frame :=
  Vector.ofFn fun j => ((List.replicate (nDigits - codes.length) 0xFF#8 ++ codes)[j.val]?).getD 0xFF#8

/-- Codes padded for scrolling (R159): `N - 1` blanks before, `N` after. -/
def padded (codes : List Seg) : List Seg :=
  List.replicate (nDigits - 1) 0xFF#8 ++ codes ++ List.replicate nDigits 0xFF#8

/-- The encoder codes of a text (R149). -/
def codesOf (t : List CharCode) : List Seg := t.map fun c => (rom hardware c).code

/-- The encoder codes of a text with the decimal point lit on the character at an index, where there is one (R152, R153). -/
def codesWithPoint (t : List CharCode) (point : Int) : List Seg :=
  t.mapIdx fun k c => if (k : Int) = point then (rom hardware c).code &&& 0x7F#8 else (rom hardware c).code

/-- The whitelist of R84: the 36 character codes the encoder accepts. -/
def whitelist : List CharCode :=
  [0x20, 0x30, 0x31, 0x32, 0x33, 0x34, 0x35, 0x36, 0x37, 0x38, 0x39,
   0x29, 0x21, 0x40, 0x23, 0x24, 0x25, 0x5E, 0x26, 0x2A, 0x28,
   0x41, 0x42, 0x43, 0x44, 0x45, 0x46, 0x52, 0x61, 0x62, 0x63, 0x64, 0x65, 0x66, 0x72, 0x2D]

/-- The value of base-`b` digits, most significant first. -/
def digitsToNat (b : Nat) (ds : List Nat) : Nat := ds.foldl (fun v d => v * b + d) 0

/-- The digits have no leading zero, but for the single digit 0. -/
def noLeadingZero (ds : List Nat) : Prop := ds = [0] ∨ (ds ≠ [] ∧ ds.head? ≠ some 0)

/-- The events of a multiplex switch (R180): the previous digit off, the next digit on, its CurrentFrame entry shifted out. -/
def switchTrace (s : State) : List Event :=
  [.digitEnable s.muxPrev false, .digitEnable (s.muxIdx + 1) true, .shiftOut s.frame[s.muxIdx + 1]]

/-- The state after the multiplex switch check of R183 with a refresh interval and the sampled clock value: every field the
switch writes, and what its events do on the pins. -/
def afterSwitch (refresh now : Word) (s : State) : State :=
  if refresh ≤ now - s.muxTs then
    { s with
      muxIdx := s.muxIdx + 1
      muxPrev := s.muxIdx + 1
      muxTs := now
      trace := s.trace ++ switchTrace s
      pinTrace := s.pinTrace ++ (switchTrace s).flatMap (pinActions s) }
  else s

/-- The same block state: everything of 10_state.md, leaving out the ports (R34: the trace is an output, not state). -/
def SameBlockState (s t : State) : Prop :=
  { t with clock := s.clock, result := s.result, trace := s.trace, pinTrace := s.pinTrace, host := s.host } = s

/-- A command the host issues in turn, at a clock value (R73, R93). -/
def inTurn (i : Instr) (now : Word) : HostInput := { cmd := encode i, now := now, overlaps := false }

/-- The state with some operations for the host to issue, each at its clock value. -/
def withProgram (s : State) (prog : List (Instr × Word)) : State :=
  { s with host := prog.map fun x => inTurn x.1 x.2 }

/-- A run of the host's operations, one step each. -/
def runProgram (s : State) (prog : List (Instr × Word)) : StepOutcome :=
  Host.Core.run Sys2Proof.core prog.length (withProgram s prog)

/-- Clock values at which STEPs come at least an interval apart, from a timestamp on (R182). -/
def spacedBy (interval : Word) : Word → List Word → Prop
  | _, [] => True
  | ts, now :: rest => due now ts interval = true ∧ spacedBy interval now rest

end Sys2Proof.Safety
end

