-- ==== Sys2Proof/Certificates/Slice0/Obligations.lean ====
section
/-! DEFINITION. The statements for the provers, one `def Obligations.<Name> : Prop` each, in the order of spec/. -/

open Sys2Proof.Machine Sys2Proof.Safety

/-! Encodings (30_encoding.md) -/

/-- R87 to R89, and assumption 2 for the numbering: every operation, at every value of every operand, is read back from the
number that stands for it, whatever zero bits stand above its own. -/
def Obligations.DecodeReadsEncodedBits : Prop :=
  ∀ (i : Sys2Proof.Instr) (nbits : Nat), i.format.bits ≤ nbits →
    Sys2Proof.encodeBits i < 2 ^ i.format.bits ∧
      Sys2Proof.decodeTableWord nbits (Sys2Proof.encodeBits i) = some i

/-- R88, R92: a command that puts nothing on a port outside its format is the encoding of the operation it decodes to. -/
def Obligations.CanonicalCommandEncodesBack : Prop :=
  ∀ (c : Sys2Proof.Command) (i : Sys2Proof.Instr),
    Sys2Proof.decode c = .instr i → c.wf i.format = true → Sys2Proof.encode i = c

/-- R92: the opcode alone tells the decoder which operand ports to read: two commands that agree on the opcode and on the
ports of its format decode to the same operation. -/
def Obligations.DecoderReadsOnlyTheFormatsPorts : Prop :=
  ∀ (c d : Sys2Proof.Command) (i : Sys2Proof.Instr), Sys2Proof.decode c = .instr i → d.op = c.op →
    (i.format.hasA = true → d.a = c.a) → (i.format.hasB = true → d.b = c.b) →
    (i.format.hasP = true →
      d.p0 = c.p0 ∧ d.p1 = c.p1 ∧ d.p2 = c.p2 ∧ d.p3 = c.p3 ∧ d.p4 = c.p4 ∧ d.p5 = c.p5) →
    Sys2Proof.decode d = .instr i

/-- The opcode map of R88 on words written out from it: the opcode byte, then the operand ports (95_test_vectors.md P1 to P5). -/
def Obligations.DecoderReadsWrittenWords : Prop :=
  Sys2Proof.decodeTableWord 56 0x07060504030201 = some (.init 2 3 4 5 6 7) ∧
  Sys2Proof.decodeTableWord 8 0x02 = some .step ∧
  Sys2Proof.decodeTableWord 40 0x0000303910 = some (.showi 12345) ∧
  Sys2Proof.decodeTableWord 48 0x02400CB78011 = some (.showf 0x400CB780 2) ∧
  Sys2Proof.decodeTableWord 8 0x20 = some .showerr ∧
  Sys2Proof.decodeTableWord 16 0x4530 = some (.encode 0x45) ∧
  Sys2Proof.decodeTableWord 16 0xB031 = some (.adddp 0xB0) ∧
  Sys2Proof.decodeTableWord 8 0x14 = none

/-- R91: an opcode is undefined exactly when it is outside the map of R88, and there are 247 such opcodes. -/
def Obligations.UndefinedOpcodesAreTheUnmappedOnes : Prop :=
  (∀ c : Sys2Proof.Command,
    (Sys2Proof.decode c = .undefined c.op ↔
      c.op ∉ [0x01#8, 0x02#8, 0x10#8, 0x11#8, 0x12#8, 0x13#8, 0x20#8, 0x30#8, 0x31#8]) ∧
    ∀ op, Sys2Proof.decode c = .undefined op → op = c.op) ∧
  ((List.range 256).filter fun n => Sys2Proof.formatOf (BitVec.ofNat 8 n) = none).length = 247

/-- R93: lines of text as the commands they stand for (95_test_vectors.md, V3, V5, P1, P3). -/
def Obligations.AssemblerReadsTheTextForms : Prop :=
  assemble "INIT 2, 3, 4, 5, 6, 7".toList = some (.init 2 3 4 5 6 7, none) ∧
  assemble "STEP ; now=1009".toList = some (.step, some 1009) ∧
  assemble "showInt -999".toList = some (.showi 0xFFFFFC19, none) ∧
  assemble "SHOWF 2.1987, 2".toList = some (.showf 0x400CB780 2, none) ∧
  assemble "SHOWH 0xBEEF".toList = some (.showh 0xBEEF, none) ∧
  assemble "ENCODE 'E'".toList = some (.encode 0x45, none) ∧
  assemble "ADDDP 0xB0".toList = some (.adddp 0xB0, none)

/-! The step (20_memory.md section 6, 30_encoding.md section 3) -/

/-- R72, R86: when the host's next command decodes to an operation and was issued in turn, a step is that operation, run with
the command's clock value on the clock port and the rest of the host's commands left to issue; when it decodes to none, the step
is the report of R234 on the same ports. That the result port is empty until the operation returns a value is assumption 5. -/
def Obligations.StepRunsTheDecodedOperation : Prop :=
  ∀ (s : State) (x : Sys2Proof.HostInput) (rest : List Sys2Proof.HostInput), s.host = x :: rest → x.overlaps = false →
    (∀ i : Sys2Proof.Instr, Sys2Proof.decode x.cmd = .instr i →
      step s = exec i { s with host := rest, clock := x.now, result := none }) ∧
    ∀ op : Sys2Proof.Byte, Sys2Proof.decode x.cmd = .undefined op →
      step s = .next
        { s with host := rest, clock := x.now, result := none, trace := s.trace ++ [.diag .undefinedOpcode op.toNat] }

/-- Assumption 3: a number stored as the next command is the one command that the next step runs. -/
def Obligations.StepRunsTheStoredWord : Prop :=
  ∀ (s : State) (nbits w : Nat) (i : Sys2Proof.Instr), Sys2Proof.decodeTableWord nbits w = some i →
    step (s.withFetchWord nbits w) = exec i { s with result := none }

/-- R234: an undefined opcode is reported, in every state, and nothing else happens. -/
def Obligations.UndefinedOpcodeIsReported : Prop :=
  ∀ (c : Sys2Proof.Command) (s : State),
    c.op ∉ [0x01#8, 0x02#8, 0x10#8, 0x11#8, 0x12#8, 0x13#8, 0x20#8, 0x30#8, 0x31#8] →
    runCommand c s = .next { s with trace := s.trace ++ [.diag .undefinedOpcode c.op.toNat] }

/-- R73, R253: a command issued before the previous one has completed faults, whatever it is; and R262: with nothing issued the
block does nothing. -/
def Obligations.OverlappingCommandFaultsAndIdleBlockRests : Prop :=
  ∀ s : State,
    (∀ (x : Sys2Proof.HostInput) (rest : List Sys2Proof.HostInput), s.host = x :: rest → x.overlaps = true →
      step s = .fault .unserialised) ∧
    (s.host = [] → step s = .next s)

/-- R63, R72: a step appends to the output traces and never rewrites them. A STEP emits at most three events (R188); any other
operation emits at most the four of INIT (R230), since ENCODE, SHOWRSV and an undefined opcode emit at most one (R116, R164, R234)
and the rest none (R117, R161 to R163, R210). That the pin trace is a field of its own is assumption 11, the model's choice. -/
def Obligations.StepOnlyAppendsToTheTraces : Prop :=
  ∀ s t : State, step s = .next t →
    (∃ es, t.trace = s.trace ++ es ∧ es.length ≤ 4 ∧
      (∀ x rest, s.host = x :: rest → Sys2Proof.decode x.cmd = .instr .step → es.length ≤ 3)) ∧
    ∃ acts, t.pinTrace = s.pinTrace ++ acts

/-! Power-on, INIT and the configured check (44_control.md) -/

/-- R231, R271: at power-on the block is not configured, has emitted nothing and has driven no pin. That the result port is
empty then is the model's choice (assumptions 1 and 5). -/
def Obligations.PowerOnIsUnconfiguredAndSilent : Prop :=
  State.reset.configured = false ∧ State.reset.trace = [] ∧ State.reset.pinTrace = [] ∧ State.reset.result = none

/-- R230: opcode `0x01` is INIT, which completes in every state; it records the pins, disables every digit in index order, writes the reset values and
nothing else. That the entries after the terminators and CurrentFrameBackup keep what they held is the model's choice
(assumption 1): R35, U15 and U16 give them no meaning. -/
def Obligations.InitConfiguresTheBlock : Prop :=
  (∀ c : Sys2Proof.Command, c.op = 0x01#8 →
    Sys2Proof.decode c = .instr (.init c.p0 c.p1 c.p2 c.p3 c.p4 c.p5)) ∧
  ∀ (p0 p1 p2 p3 p4 p5 : Sys2Proof.Byte) (s : State),
    exec (.init p0 p1 p2 p3 p4 p5) s = .next
      { s with
        configured := true
        pinData := p0, pinClk := p1, pinDig := #v[p2, p3, p4, p5]
        inBuf := s.inBuf.set 0 0x00#8
        symBuf := s.symBuf.set 0 0x00#8, symLen := 0
        frame := #v[0x00#8, 0x00#8, 0x00#8, 0x00#8]
        bakValid := false
        scrollActive := false, scrollFrames := 0, scrollIdx := 0, scrollTs := 0
        muxIdx := 0, muxPrev := 0, muxTs := 0
        errActive := false, errTs := 0
        trace := s.trace ++ [.digitEnable 0 false, .digitEnable 1 false, .digitEnable 2 false, .digitEnable 3 false]
        pinTrace := s.pinTrace ++ [.digitLine p2 false, .digitLine p3 false, .digitLine p4 false, .digitLine p5 false] }

/-- R233: before the first INIT the six operations that need it fault, and ENCODE, ADDDP and INIT complete. -/
def Obligations.UnconfiguredBlockFaults : Prop :=
  ∀ s : State, s.configured = false →
    exec .step s = .fault .notConfigured ∧
    (∀ a, exec (.showi a) s = .fault .notConfigured) ∧
    (∀ a b, exec (.showf a b) s = .fault .notConfigured) ∧
    (∀ a, exec (.showh a) s = .fault .notConfigured) ∧
    (∀ a b, exec (.showrsv a b) s = .fault .notConfigured) ∧
    exec .showerr s = .fault .notConfigured ∧
    (∀ b, ∃ t, exec (.encode b) s = .next t) ∧
    (∀ b, ∃ t, exec (.adddp b) s = .next t) ∧
    (∀ p0 p1 p2 p3 p4 p5, ∃ t, exec (.init p0 p1 p2 p3 p4 p5) s = .next t)

/-- R22, R23: only INIT writes the pin identifiers, and once the block is configured it stays so. -/
def Obligations.OnlyInitWritesThePins : Prop :=
  ∀ s t : State, step s = .next t →
    (s.configured = true → t.configured = true) ∧
    ((∀ x rest, s.host = x :: rest → x.cmd.op ≠ 0x01#8) →
      t.pinData = s.pinData ∧ t.pinClk = s.pinClk ∧ t.pinDig = s.pinDig ∧ t.configured = s.configured)

/-! The encoder (40_symbol_encoder.md) -/

/-- R116, R110: opcode `0x30` is ENCODE, which completes in every state with the ROM entry on the result port, reports a lookup
that failed, and changes nothing else. -/
def Obligations.EncodeReturnsTheRomEntry : Prop :=
  (∀ c : Sys2Proof.Command, c.op = 0x30#8 → Sys2Proof.decode c = .instr (.encode c.b)) ∧
  ∀ (b : Sys2Proof.CharCode) (s : State),
    ((rom hardware b).ok = true →
      exec (.encode b) s = .next { s with result := some (.encoded (rom hardware b).code true) }) ∧
    ((rom hardware b).ok = false →
      exec (.encode b) s = .next
        { s with
          result := some (.encoded (rom hardware b).code false)
          trace := s.trace ++ [.diag .unsupportedChar b.toNat] })

/-- R84: the ROM accepts exactly the 36 codes of the whitelist. -/
def Obligations.RomAcceptsExactlyTheWhitelist : Prop :=
  (∀ c : Sys2Proof.CharCode, (rom hardware c).ok = true ↔ c ∈ whitelist) ∧ whitelist.length = 36 ∧ whitelist.Nodup

/-- R114: every other code maps to the "zero" pattern, the code of the digit 0, and fails. -/
def Obligations.RomFallsBackToTheZeroPattern : Prop :=
  (∀ c : Sys2Proof.CharCode, c ∉ whitelist → rom hardware c = { code := 0xC0#8, ok := false }) ∧
    (rom hardware 0x30#8).code = 0xC0#8

/-- R112: the base symbols, the segments each lights, and their codes; no point is lit. -/
def Obligations.RomHoldsTheBaseSymbols : Prop :=
  ∀ row ∈ ([(0x30, [.a, .b, .c, .d, .e, .f], 0xC0), (0x31, [.b, .c], 0xF9), (0x32, [.a, .b, .d, .e, .g], 0xA4),
      (0x33, [.a, .b, .c, .d, .g], 0xB0), (0x34, [.b, .c, .f, .g], 0x99), (0x35, [.a, .c, .d, .f, .g], 0x92),
      (0x36, [.a, .c, .d, .e, .f, .g], 0x82), (0x37, [.a, .b, .c], 0xF8),
      (0x38, [.a, .b, .c, .d, .e, .f, .g], 0x80), (0x39, [.a, .b, .c, .d, .f, .g], 0x90),
      (0x41, [.a, .b, .c, .e, .f, .g], 0x88), (0x42, [.c, .d, .e, .f, .g], 0x83), (0x43, [.a, .d, .e, .f], 0xC6),
      (0x44, [.b, .c, .d, .e, .g], 0xA1), (0x45, [.a, .d, .e, .f, .g], 0x86), (0x46, [.a, .e, .f, .g], 0x8E),
      (0x52, [.e, .g], 0xAF), (0x2D, [.g], 0xBF), (0x20, [], 0xFF)]
      : List (Sys2Proof.CharCode × List Sys2Proof.Segment × Sys2Proof.Seg)),
    rom hardware row.1 = { code := row.2.2, ok := true } ∧
      Sys2Proof.Segment.all.filter (segmentLit hardware · row.2.2) = row.2.1 ∧ pointLit hardware row.2.2 = false

/-- R115: letters are case-insensitive, whatever the parameters. -/
def Obligations.LettersAreCaseInsensitive : Prop :=
  ∀ (p : Sys2Proof.Params), ∀ c ∈ [0x41#8, 0x42#8, 0x43#8, 0x44#8, 0x45#8, 0x46#8, 0x52#8], rom p (c + 0x20#8) = rom p c

/-- R113: each dot-alias character maps to its digit's code with the point lit; the ten rows of its table give the character, the
digit and the code. -/
def Obligations.DotAliasIsTheDigitWithItsPoint : Prop :=
  (∀ n : Fin 10,
    rom hardware (hardware.dotAlias n) =
      { code := (rom hardware (0x30#8 + BitVec.ofNat 8 n.val)).code &&& 0x7F#8, ok := true }) ∧
  ∀ row ∈ ([(0x29, 0, 0x40), (0x21, 1, 0x79), (0x40, 2, 0x24), (0x23, 3, 0x30), (0x24, 4, 0x19), (0x25, 5, 0x12),
      (0x5E, 6, 0x02), (0x26, 7, 0x78), (0x2A, 8, 0x00), (0x28, 9, 0x10)]
      : List (Sys2Proof.CharCode × Fin 10 × Sys2Proof.Seg)),
    hardware.dotAlias row.2.1 = row.1 ∧ rom hardware row.1 = { code := row.2.2, ok := true }

/-- R80, R81, R112 for every assignment of bits and every glyph table: the code of a symbol lights exactly the segments of its
glyph, and no point. -/
def Obligations.GlyphCodeLightsExactlyItsGlyph : Prop :=
  ∀ (p : Sys2Proof.Params), p.bitsDistinct = true → ∀ (sym : Sys2Proof.Symbol) (seg : Sys2Proof.Segment),
    segmentLit p seg (glyphCode p sym) = decide (seg ∈ p.glyph sym) ∧ pointLit p (glyphCode p sym) = false

/-- R117 and its testable property, for every assignment of bits: AddDP is idempotent, clears the decimal-point bit and
changes no other. -/
def Obligations.AddDPClearsOnlyThePoint : Prop :=
  ∀ (p : Sys2Proof.Params) (x : Sys2Proof.Seg),
    addDP p (addDP p x) = addDP p x ∧ (addDP p x).getLsbD p.dpBit.val = false ∧
      ∀ i, i ≠ p.dpBit.val → (addDP p x).getLsbD i = x.getLsbD i

/-- R117: opcode `0x31` is ADDDP, which completes in every state with `B & 0x7F` on the result port and changes nothing else. -/
def Obligations.AdddpReturnsTheCodeWithItsPoint : Prop :=
  (∀ c : Sys2Proof.Command, c.op = 0x31#8 → Sys2Proof.decode c = .instr (.adddp c.b)) ∧
  ∀ (b : Sys2Proof.Seg) (s : State), exec (.adddp b) s = .next { s with result := some (.code (b &&& 0x7F#8)) }

/-! The formatter (41_display_update.md) -/

/-- R143: DecText is the minimal signed decimal text: a hyphen for a negative number, then the decimal digits of its size, the
first of them no zero unless it is the only one. -/
def Obligations.DecTextIsMinimalSignedDecimal : Prop :=
  ∀ v : Int, ∃ ds : List Nat,
    (∀ d ∈ ds, d < 10) ∧ digitsToNat 10 ds = v.natAbs ∧ noLeadingZero ds ∧
    decText v = (if v < 0 then [0x2D#8] else []) ++ ds.map fun d => BitVec.ofNat 8 (0x30 + d)

/-- R145: HexText is the minimal lower-case base-16 text of a `u32`, 1 to 8 characters. -/
def Obligations.HexTextIsMinimalLowerCaseHex : Prop :=
  ∀ a : Sys2Proof.Word, ∃ ds : List Nat,
    (∀ d ∈ ds, d < 16) ∧ digitsToNat 16 ds = a.toNat ∧ noLeadingZero ds ∧ 1 ≤ ds.length ∧ ds.length ≤ 8 ∧
    hexText a.toNat = ds.map fun d => if d < 10 then BitVec.ofNat 8 (0x30 + d) else BitVec.ofNat 8 (0x61 + (d - 10))

/-- R142, for a buffer of any size: a text that fits is stored with its terminator; one that does not is cut to its first
`m - 1` characters and reported with its length. The other entries keep their values. The block's own InputBuffer has 13 entries,
and the report joins the end of the trace; nothing else changes. -/
def Obligations.WriteInputBufferCutsAndReports : Prop :=
  (∀ (t : List Sys2Proof.CharCode) (s : State),
    writeInputBuffer t s =
      { s with
        inBuf := writeText s.inBuf t
        trace := s.trace ++ if t.length ≤ 12 then [] else [.diag .formatOverflow t.length] }) ∧
  ∀ (m : Nat) (buf : Vector Sys2Proof.CharCode m) (t : List Sys2Proof.CharCode), 0 < m →
    (t.length ≤ m - 1 →
      overflowEvents m t = [] ∧
      ∀ k (hk : k < m), (writeText buf t)[k] = if h : k < t.length then t[k] else if k = t.length then 0x00#8 else buf[k]) ∧
    ((hlong : m - 1 < t.length) →
      overflowEvents m t = [.diag .formatOverflow t.length] ∧
      ∀ k (hk : k < m), (writeText buf t)[k] = if h : k < m - 1 then t[k]'(by omega) else 0x00#8)

/-- R161: SHOWI, opcode `0x10`. Before INIT it faults. After it, a text of at most four characters is shown static, right-aligned behind
blanks; a longer one becomes the padded scroll sequence and CurrentFrame keeps its contents. Nothing else changes. -/
def Obligations.ShowIntegerShowsItsText : Prop :=
  (∀ c : Sys2Proof.Command, c.op = 0x10#8 → Sys2Proof.decode c = .instr (.showi c.a)) ∧
  ∀ (a : Sys2Proof.Word) (s : State),
    let t := decText a.toInt
    (s.configured = false → exec (.showi a) s = .fault .notConfigured) ∧
    (s.configured = true → t.length ≤ 4 → exec (.showi a) s = .next
      { s with
        inBuf := memWrite s.inBuf 0 (t ++ [0x00#8])
        symBuf := memWrite s.symBuf 0 (codesOf t ++ [0x00#8])
        symLen := BitVec.ofNat 8 t.length
        frame := rightAligned (codesOf t)
        scrollActive := false }) ∧
    (s.configured = true → 4 < t.length → exec (.showi a) s = .next
      { s with
        inBuf := memWrite s.inBuf 0 (t ++ [0x00#8])
        symBuf := memWrite s.symBuf 0 (padded (codesOf t) ++ [0x00#8])
        symLen := BitVec.ofNat 8 (3 + t.length + 4)
        scrollFrames := BitVec.ofNat 8 (t.length + 4)
        scrollIdx := 0
        scrollActive := true })

/-- R163: SHOWH, opcode `0x12`, as SHOWI with the hex text of the operand. -/
def Obligations.ShowHexShowsItsText : Prop :=
  (∀ c : Sys2Proof.Command, c.op = 0x12#8 → Sys2Proof.decode c = .instr (.showh c.a)) ∧
  ∀ (a : Sys2Proof.Word) (s : State),
    let t := hexText a.toNat
    (s.configured = false → exec (.showh a) s = .fault .notConfigured) ∧
    (s.configured = true → t.length ≤ 4 → exec (.showh a) s = .next
      { s with
        inBuf := memWrite s.inBuf 0 (t ++ [0x00#8])
        symBuf := memWrite s.symBuf 0 (codesOf t ++ [0x00#8])
        symLen := BitVec.ofNat 8 t.length
        frame := rightAligned (codesOf t)
        scrollActive := false }) ∧
    (s.configured = true → 4 < t.length → exec (.showh a) s = .next
      { s with
        inBuf := memWrite s.inBuf 0 (t ++ [0x00#8])
        symBuf := memWrite s.symBuf 0 (padded (codesOf t) ++ [0x00#8])
        symLen := BitVec.ofNat 8 (3 + t.length + 4)
        scrollFrames := BitVec.ofNat 8 (t.length + 4)
        scrollIdx := 0
        scrollActive := true })

/-- R162: SHOWF, opcode `0x11`. It faults before INIT, and where FSCALE gives no `s32`. Otherwise the scaled integer's text is shown with its
decimal point at index `L - 1 - dp` (R152), on no character when that index is negative (R153). -/
def Obligations.ShowFloatShowsItsTextWithPoint : Prop :=
  (∀ c : Sys2Proof.Command, c.op = 0x11#8 → Sys2Proof.decode c = .instr (.showf c.a c.b)) ∧
  ∀ (a : Sys2Proof.Word) (b : Sys2Proof.Byte) (s : State),
    (s.configured = false → exec (.showf a b) s = .fault .notConfigured) ∧
    (s.configured = true → fscaleDefault a b = none → exec (.showf a b) s = .fault .floatRange) ∧
    ∀ v : Sys2Proof.Word, s.configured = true → fscaleDefault a b = some v →
      let t := decText v.toInt
      let codes := codesWithPoint t ((t.length : Int) - 1 - b.toNat)
      (t.length ≤ 4 → exec (.showf a b) s = .next
        { s with
          inBuf := memWrite s.inBuf 0 (t ++ [0x00#8])
          symBuf := memWrite s.symBuf 0 (codes ++ [0x00#8])
          symLen := BitVec.ofNat 8 t.length
          frame := rightAligned codes
          scrollActive := false }) ∧
      (4 < t.length → exec (.showf a b) s = .next
        { s with
          inBuf := memWrite s.inBuf 0 (t ++ [0x00#8])
          symBuf := memWrite s.symBuf 0 (padded codes ++ [0x00#8])
          symLen := BitVec.ofNat 8 (3 + t.length + 4)
          scrollFrames := BitVec.ofNat 8 (t.length + 4)
          scrollIdx := 0
          scrollActive := true })

/-- R164: SHOWRSV, opcode `0x13`, faults before INIT; after it, it reports the selector 3 and changes nothing, whatever its operands. -/
def Obligations.ReservedSelectorIsReported : Prop :=
  (∀ c : Sys2Proof.Command, c.op = 0x13#8 → Sys2Proof.decode c = .instr (.showrsv c.a c.b)) ∧
  ∀ (a : Sys2Proof.Word) (b : Sys2Proof.Byte) (s : State),
    (s.configured = false → exec (.showrsv a b) s = .fault .notConfigured) ∧
    (s.configured = true →
      exec (.showrsv a b) s = .next { s with trace := s.trace ++ [.diag .unknownSelector 3] })

/-- R160: the windows of a scroll sequence: window `k` shows entries `k` to `k+3` of the padded codes; the first shows one
character at the rightmost digit, the last is all blank. -/
def Obligations.ScrollWindowsSlideOverThePaddedCodes : Prop :=
  ∀ (v : Vector Sys2Proof.Seg Sys2Proof.bufCap) (codes : List Sys2Proof.Seg) (h : 0 < codes.length), codes.length ≤ 12 →
    let w := memWrite v 0 (padded codes ++ [0x00#8])
    (∀ k, k < codes.length + 4 → ∀ j (hj : j < 4), (padded codes)[k + j]? = some (scrollWindow w k)[j]) ∧
    scrollWindow w 0 = #v[0xFF#8, 0xFF#8, 0xFF#8, codes[0]] ∧
    scrollWindow w (codes.length + 3) = #v[0xFF#8, 0xFF#8, 0xFF#8, 0xFF#8]

/-- R165: the SHOW operations neither write the overlay state nor depend on it. -/
def Obligations.ShowIgnoresTheOverlay : Prop :=
  ∀ (i : Sys2Proof.Instr) (s t : State) (active valid : Bool) (ts : Sys2Proof.Word) (bak : Sys2Proof.Frame),
    i.format = .V ∨ i.format = .VF → exec i s = .next t →
    t.errActive = s.errActive ∧ t.bakValid = s.bakValid ∧ t.errTs = s.errTs ∧ t.frameBak = s.frameBak ∧
    exec i { s with errActive := active, bakValid := valid, errTs := ts, frameBak := bak } =
      .next { t with errActive := active, bakValid := valid, errTs := ts, frameBak := bak }

/-! FSCALE (41_display_update.md rule R147) -/

/-- R147 steps 1 to 6: FSCALE raises its fault on a NaN and an infinity, on every operand once `10^dp` overflows binary32 (`dp`
from 39 on), where the rounded product overflows, and where its truncation toward zero is no `s32`; on a zero before `dp = 39`, and
wherever the truncation is an `s32`, it answers that number. -/
def Obligations.FscaleFaultsOnNonFiniteOperands : Prop :=
  ∀ (a : Sys2Proof.Word) (b : Sys2Proof.Byte),
    (a.extractLsb 30 23 = 0xFF#8 → fscaleDefault a b = none) ∧
    (39 ≤ b.toNat → fscaleDefault a b = none) ∧
    (b.toNat ≤ 38 → a.extractLsb 30 0 = 0#31 → fscaleDefault a b = some 0) ∧
    ∀ x scale : Magnitude, floatMagnitude a = some x → rne32 (10 ^ b.toNat) 1 = some scale →
      (mulRne32 scale x = none → fscaleDefault a b = none) ∧
      ∀ q : Magnitude, mulRne32 scale x = some q →
        let whole : ℤ := ⌊(q.mant : ℚ) * 2 ^ q.exp⌋
        let v : ℤ := if floatSign a then -whole else whole
        (v < -2 ^ 31 ∨ 2 ^ 31 - 1 < v → fscaleDefault a b = none) ∧
        (-2 ^ 31 ≤ v → v ≤ 2 ^ 31 - 1 → ∃ w : Sys2Proof.Word, fscaleDefault a b = some w ∧ w.toInt = v)

/-- R147 step 2: RNE32 rounds to the nearest binary32 value: no multiple `k * 2^q` of a power of two with `k` below `2^24` and `q`
at least -149 lies nearer than the result, and where another multiple of the result's own power of two lies as near, the result is
the even one. It overflows exactly from `2^128 - 2^103` on, half a unit below `2^128`, where the result would be `2^128` or more.
A product of two magnitudes is rounded from its exact value. -/
def Obligations.RoundingIsToTheNearestValue : Prop :=
  (∀ num den : Nat, 0 < den → (rne32 num den = none ↔ (2 : ℚ) ^ 128 - 2 ^ 103 ≤ (num : ℚ) / den)) ∧
  (∀ (num den : Nat) (m : Magnitude), 0 < den → rne32 num den = some m →
    m.mant ≤ 2 ^ 24 ∧ -149 ≤ m.exp ∧
    (∀ (k : Nat) (q : Int), k < 2 ^ 24 → -149 ≤ q →
      abs ((m.mant : ℚ) * 2 ^ m.exp - (num : ℚ) / den) ≤ abs ((k : ℚ) * 2 ^ q - (num : ℚ) / den)) ∧
    ∀ k : Nat, k ≠ m.mant →
      abs ((k : ℚ) * 2 ^ m.exp - (num : ℚ) / den) = abs ((m.mant : ℚ) * 2 ^ m.exp - (num : ℚ) / den) →
      m.mant % 2 = 0) ∧
  ∀ x y : Magnitude, ∃ num den : Nat, 0 < den ∧
    (num : ℚ) / den = (x.mant : ℚ) * 2 ^ x.exp * ((y.mant : ℚ) * 2 ^ y.exp) ∧ mulRne32 x y = rne32 num den

/-- R147's property of FSCALE, which this model's default has for up to 10 decimal places (assumption 7): where the exact
product is inside the `s32` range and more than one binary32 unit in the last place away from every integer, FSCALE truncates
it toward zero. -/
def Obligations.FscaleTruncatesTheExactProduct : Prop :=
  ∀ (a : Sys2Proof.Word) (b : Sys2Proof.Byte) (m : Magnitude),
    b.toNat ≤ 10 → floatMagnitude a = some m →
    let size : ℚ := (m.mant : ℚ) * 2 ^ m.exp * 10 ^ b.toNat
    let v : ℚ := if floatSign a then -size else size
    (-2 ^ 31 : ℚ) ≤ v → v ≤ 2 ^ 31 - 1 →
    (∀ k : ℤ, (2 : ℚ) ^ max (Int.log 2 size - 23) (-149) < abs (v - k)) →
    ∃ w : Sys2Proof.Word, fscaleDefault a b = some w ∧ w.toInt = (if floatSign a then ⌈v⌉ else ⌊v⌋)

/-! STEP (42_loop_step.md) -/

/-- R182: the elapsed time is the modular difference, and a check passes when it is at least the interval, unsigned. -/
def Obligations.TimerChecksUseModularElapsedTime : Prop :=
  ∀ now ts interval : Sys2Proof.Word,
    ((elapsed now ts).toNat : Int) = ((now.toNat : Int) - ts.toNat) % 2 ^ 32 ∧
    (due now ts interval = true ↔ interval.toNat ≤ (elapsed now ts).toNat)

/-- R180, R183: a STEP with neither an overlay nor a scroll runs the multiplex switch check and nothing else. -/
def Obligations.StepSwitchesTheDigit : Prop :=
  ∀ s : State, s.configured = true → s.errActive = false → s.scrollActive = false →
    exec .step s = .next (afterSwitch 4 s.clock s)

/-- R184, R185: a STEP during an overlay runs the switch check, then the expiry check; the scroll is suspended. -/
def Obligations.StepExpiresTheOverlay : Prop :=
  ∀ s : State, s.configured = true → s.errActive = true →
    (1000#32 ≤ s.clock - s.errTs →
      exec .step s = .next
        { afterSwitch 4 s.clock s with frame := s.frameBak, bakValid := false, errActive := false }) ∧
    (¬ 1000#32 ≤ s.clock - s.errTs → exec .step s = .next (afterSwitch 4 s.clock s))

/-- R184, R186: a STEP while scrolling, with no overlay, runs the switch check on the old frame, then copies the window at
`scroll_idx` when the scroll interval has passed, and advances the index. It holds in states that no run reaches too: that the
index is then taken modulo 2^8 is assumption 19, and that an entry outside SymbolBuffer reads as a free value is assumption 9. -/
def Obligations.StepAdvancesTheScroll : Prop :=
  ∀ s : State, s.configured = true → s.errActive = false → s.scrollActive = true →
    (300#32 ≤ s.clock - s.scrollTs →
      exec .step s = .next
        { afterSwitch 4 s.clock s with
          frame := #v[memRead s.symBuf s.scrollIdx.toNat, memRead s.symBuf (s.scrollIdx.toNat + 1),
            memRead s.symBuf (s.scrollIdx.toNat + 2), memRead s.symBuf (s.scrollIdx.toNat + 3)]
          scrollTs := s.clock
          scrollIdx := if s.scrollIdx + 1 = s.scrollFrames then 0 else s.scrollIdx + 1 }) ∧
    (¬ 300#32 ≤ s.clock - s.scrollTs → exec .step s = .next (afterSwitch 4 s.clock s))

/-- R184, D11: STEP for every value of the three intervals: the switch, then one of the expiry and the advance, each by its own
interval. In states that no run reaches its scroll clause rests on assumptions 9 and 19, as that of StepAdvancesTheScroll does. -/
def Obligations.StepForEveryInterval : Prop :=
  ∀ (p : Sys2Proof.Params) (s : State), s.configured = true →
    stepWith p s = .next
      (let u := afterSwitch p.refreshMs s.clock s
       if s.errActive = true then
         if p.errorMs ≤ s.clock - s.errTs then { u with frame := s.frameBak, bakValid := false, errActive := false } else u
       else if s.scrollActive = true ∧ p.scrollMs ≤ s.clock - s.scrollTs then
         { u with
           frame := scrollWindow s.symBuf s.scrollIdx.toNat
           scrollTs := s.clock
           scrollIdx := if s.scrollIdx + 1 = s.scrollFrames then 0 else s.scrollIdx + 1 }
       else u)

/-- R190: STEPs that come at least the refresh interval apart visit the digits in order, one switch each, whatever the overlay
and the scroll do. -/
def Obligations.DigitsAreVisitedInOrder : Prop :=
  ∀ (s : State) (times : List Sys2Proof.Word), s.configured = true → spacedBy 4 s.muxTs times →
    ∃ t, runProgram s (times.map fun now => (.step, now)) = .next t ∧
      t.muxIdx.val = (s.muxIdx.val + times.length) % 4 ∧ t.trace.length = s.trace.length + 3 * times.length

/-- R186, E10: STEPs that come at least the scroll interval apart show the windows one after the other, wrap after the last,
and never drift: after any number of them the frame is the window that the count says. Where the frame count exceeds the sequence,
in states that no run reaches, a window reads the free values of assumption 9. -/
def Obligations.ScrollCyclesThroughItsWindows : Prop :=
  ∀ (s : State) (times : List Sys2Proof.Word), s.configured = true → s.scrollActive = true → s.errActive = false →
    s.scrollIdx.toNat < s.scrollFrames.toNat → spacedBy 300 s.scrollTs times → times ≠ [] →
    ∃ t, runProgram s (times.map fun now => (.step, now)) = .next t ∧
      t.frame = scrollWindow s.symBuf ((s.scrollIdx.toNat + (times.length - 1)) % s.scrollFrames.toNat) ∧
      t.scrollIdx.toNat = (s.scrollIdx.toNat + times.length) % s.scrollFrames.toNat ∧
      t.scrollActive = true ∧ t.symBuf = s.symBuf ∧ t.scrollFrames = s.scrollFrames

/-! SHOWERR (43_error_overlay.md) -/

/-- R210, R211: SHOWERR, opcode `0x20`, faults before INIT; after it, it saves CurrentFrame, shows "Err ", stamps the clock and sets the flags,
whether or not an overlay is active, and changes nothing else. -/
def Obligations.ShowErrorBeginsTheOverlay : Prop :=
  (∀ c : Sys2Proof.Command, c.op = 0x20#8 → Sys2Proof.decode c = .instr .showerr) ∧
  ∀ s : State,
    (s.configured = false → exec .showerr s = .fault .notConfigured) ∧
    (s.configured = true → exec .showerr s = .next
      { s with
        frameBak := s.frame, bakValid := true
        frame := #v[0x86#8, 0xAF#8, 0xAF#8, 0xFF#8]
        errTs := s.clock, errActive := true })

/-- R212: a second SHOWERR before the expiry saves the "Err " pattern itself, so the overlay's end shows "Err " again. -/
def Obligations.SecondShowErrorLosesTheContent : Prop :=
  ∀ (s : State) (t0 t1 t2 : Sys2Proof.Word), s.configured = true → 1000#32 ≤ t2 - t1 →
    ∃ t, runProgram s [(.showerr, t0), (.showerr, t1), (.step, t2)] = .next t ∧
      t.frame = #v[0x86#8, 0xAF#8, 0xAF#8, 0xFF#8] ∧ t.errActive = false ∧ t.bakValid = false

/-- E8, R185, R213: after SHOWERR, any number of STEPs before the duration has passed leave the overlay on and the scroll
suspended; the first STEP at or after it restores the frame that SHOWERR found and leaves the scroll where it was. -/
def Obligations.OverlayRestoresTheFrameAfterItsDuration : Prop :=
  ∀ (s : State) (start stop : Sys2Proof.Word) (times : List Sys2Proof.Word), s.configured = true →
    (∀ now ∈ times, ¬ 1000#32 ≤ now - start) → 1000#32 ≤ stop - start →
    ∃ t u,
      runProgram s ((.showerr, start) :: times.map fun now => (.step, now)) = .next t ∧
      t.frame = #v[0x86#8, 0xAF#8, 0xAF#8, 0xFF#8] ∧ t.errActive = true ∧
      runProgram t [(.step, stop)] = .next u ∧
      u.frame = s.frame ∧ u.errActive = false ∧ u.bakValid = false ∧
      u.scrollActive = s.scrollActive ∧ u.scrollIdx = s.scrollIdx ∧ u.scrollTs = s.scrollTs ∧
      u.scrollFrames = s.scrollFrames ∧ u.symBuf = s.symBuf

/-- R214: nothing but a SHOWERR starts an overlay. -/
def Obligations.OnlyShowErrorStartsAnOverlay : Prop :=
  ∀ s t : State, step s = .next t → s.errActive = false → t.errActive = true →
    ∃ x rest, s.host = x :: rest ∧ Sys2Proof.decode x.cmd = .instr .showerr

/-! Whole-machine rules -/

/-- R77: no operation but STEP and SHOWERR depends on the clock. -/
def Obligations.OnlyStepAndShowErrorReadTheClock : Prop :=
  ∀ (i : Sys2Proof.Instr) (s t : State) (now : Sys2Proof.Word), i ≠ .step → i ≠ .showerr → exec i s = .next t →
    t.clock = s.clock ∧ exec i { s with clock := now } = .next { t with clock := now }

/-- R69: every operation but STEP and SHOWERR leaves the block's state the same when it is repeated at once with the same
operands. -/
def Obligations.RepeatedOperationKeepsTheState : Prop :=
  ∀ (i : Sys2Proof.Instr) (s t : State), i ≠ .step → i ≠ .showerr → exec i s = .next t →
    ∃ u, exec i t = .next u ∧ SameBlockState t u

/-- R36 (with R25 and R183): the block's invariants hold at power-on, where they ask nothing. -/
def Obligations.PowerOnIsSafe : Prop := Safe State.reset

/-- R36: every step keeps the invariants: the scroll's frame count and index, the backup's validity, the two terminators and
the settled multiplex index. -/
def Obligations.EveryStepKeepsTheInvariants : Prop :=
  ∀ s t : State, Consistent s → step s = .next t → Consistent t

/-- R189, E9: every step keeps at most one digit enabled. -/
def Obligations.EveryStepKeepsAtMostOneDigitEnabled : Prop :=
  ∀ s t : State, AtMostOneEnabled s → step s = .next t → AtMostOneEnabled t

/-- R276: a switch leaves exactly one digit enabled, the active one, with the previously active index equal to it (R183), and from
then on every step but an INIT keeps both so. -/
def Obligations.ExactlyOneDigitEnabledAfterTheFirstSwitch : Prop :=
  ∀ s t : State, step s = .next t → ∀ (x : Sys2Proof.HostInput) (rest : List Sys2Proof.HostInput), s.host = x :: rest →
    (AtMostOneEnabled s → Sys2Proof.decode x.cmd = .instr .step → 4#32 ≤ x.now - s.muxTs →
      ExactlyOneEnabled t ∧ MuxSettled t) ∧
    (ExactlyOneEnabled s → MuxSettled s → x.cmd.op ≠ 0x01#8 → ExactlyOneEnabled t ∧ MuxSettled t)

/-! The ports (20_memory.md section 3) -/

/-- R64: a digit event drives its digit's pin to the on level or to the other level, and decides alone whether the digit is
enabled. -/
def Obligations.DigitEventsDriveTheirLines : Prop :=
  ∀ (s : State) (i : Fin Sys2Proof.nDigits) (on : Bool) (before : List PinAction) (trace : List Event),
    lineLevel s.pinDig[i] (before ++ pinActions s (.digitEnable i on)) =
      some (if on then Sys2Proof.Config.digitOnLevel else !Sys2Proof.Config.digitOnLevel) ∧
    (∀ j, digitEnabled (trace ++ [.digitEnable i on]) j = if j = i then on else digitEnabled trace j) ∧
    (∀ j code, digitEnabled (trace ++ [.shiftOut code]) j = digitEnabled trace j) ∧
    (∀ j kind info, digitEnabled (trace ++ [.diag kind info]) j = digitEnabled trace j)

/-- R65 and the 74HC164 reading of R66, which is assumption 13: a shift-out leaves the code in the shift register, bit 0 in the
last stage and bit 7 in the first, whatever the register held. Where INIT gave both lines one pin this rests on assumption 13's
steady data bit. -/
def Obligations.ShiftOutFillsTheShiftRegister : Prop :=
  ∀ (s : State) (r : ShiftRegister) (code : Sys2Proof.Seg),
    ∀ k < 8, (shiftActions s.pinData s.pinClk r (pinActions s (.shiftOut code))).stages.getLsbD k = code.getLsbD (7 - k)

/-- R251: the numeric codes of the report kinds. -/
def Obligations.ReportKindsHaveTheirCodes : Prop :=
  diagCode .unsupportedChar = 1 ∧ diagCode .formatOverflow = 2 ∧ diagCode .unknownSelector = 3 ∧
    diagCode .undefinedOpcode = 4
end

