-- ==== Sys2Proof/Laws/State.lean ====
section
/-! SUPPORT. One lemma per field per update of State, true by rfl, so that no later proof unfolds a record update. -/

namespace Sys2Proof.Machine

open Sys2Proof

variable (s : State)

@[simp] theorem emit_configured (e : Event) : (emit e s).configured = s.configured := rfl
@[simp] theorem emit_pinData (e : Event) : (emit e s).pinData = s.pinData := rfl
@[simp] theorem emit_pinClk (e : Event) : (emit e s).pinClk = s.pinClk := rfl
@[simp] theorem emit_pinDig (e : Event) : (emit e s).pinDig = s.pinDig := rfl
@[simp] theorem emit_inBuf (e : Event) : (emit e s).inBuf = s.inBuf := rfl
@[simp] theorem emit_symBuf (e : Event) : (emit e s).symBuf = s.symBuf := rfl
@[simp] theorem emit_symLen (e : Event) : (emit e s).symLen = s.symLen := rfl
@[simp] theorem emit_frame (e : Event) : (emit e s).frame = s.frame := rfl
@[simp] theorem emit_frameBak (e : Event) : (emit e s).frameBak = s.frameBak := rfl
@[simp] theorem emit_bakValid (e : Event) : (emit e s).bakValid = s.bakValid := rfl
@[simp] theorem emit_scrollActive (e : Event) : (emit e s).scrollActive = s.scrollActive := rfl
@[simp] theorem emit_scrollFrames (e : Event) : (emit e s).scrollFrames = s.scrollFrames := rfl
@[simp] theorem emit_scrollIdx (e : Event) : (emit e s).scrollIdx = s.scrollIdx := rfl
@[simp] theorem emit_scrollTs (e : Event) : (emit e s).scrollTs = s.scrollTs := rfl
@[simp] theorem emit_muxIdx (e : Event) : (emit e s).muxIdx = s.muxIdx := rfl
@[simp] theorem emit_muxPrev (e : Event) : (emit e s).muxPrev = s.muxPrev := rfl
@[simp] theorem emit_muxTs (e : Event) : (emit e s).muxTs = s.muxTs := rfl
@[simp] theorem emit_errActive (e : Event) : (emit e s).errActive = s.errActive := rfl
@[simp] theorem emit_errTs (e : Event) : (emit e s).errTs = s.errTs := rfl
@[simp] theorem emit_clock (e : Event) : (emit e s).clock = s.clock := rfl
@[simp] theorem emit_result (e : Event) : (emit e s).result = s.result := rfl
@[simp] theorem emit_trace (e : Event) : (emit e s).trace = s.trace ++ [e] := rfl
@[simp] theorem emit_pinTrace (e : Event) : (emit e s).pinTrace = s.pinTrace ++ pinActions s e := rfl
@[simp] theorem emit_host (e : Event) : (emit e s).host = s.host := rfl

@[simp] theorem returnResult_configured (r : Result) : (returnResult r s).configured = s.configured := rfl
@[simp] theorem returnResult_pinData (r : Result) : (returnResult r s).pinData = s.pinData := rfl
@[simp] theorem returnResult_pinClk (r : Result) : (returnResult r s).pinClk = s.pinClk := rfl
@[simp] theorem returnResult_pinDig (r : Result) : (returnResult r s).pinDig = s.pinDig := rfl
@[simp] theorem returnResult_inBuf (r : Result) : (returnResult r s).inBuf = s.inBuf := rfl
@[simp] theorem returnResult_symBuf (r : Result) : (returnResult r s).symBuf = s.symBuf := rfl
@[simp] theorem returnResult_symLen (r : Result) : (returnResult r s).symLen = s.symLen := rfl
@[simp] theorem returnResult_frame (r : Result) : (returnResult r s).frame = s.frame := rfl
@[simp] theorem returnResult_frameBak (r : Result) : (returnResult r s).frameBak = s.frameBak := rfl
@[simp] theorem returnResult_bakValid (r : Result) : (returnResult r s).bakValid = s.bakValid := rfl
@[simp] theorem returnResult_scrollActive (r : Result) : (returnResult r s).scrollActive = s.scrollActive := rfl
@[simp] theorem returnResult_scrollFrames (r : Result) : (returnResult r s).scrollFrames = s.scrollFrames := rfl
@[simp] theorem returnResult_scrollIdx (r : Result) : (returnResult r s).scrollIdx = s.scrollIdx := rfl
@[simp] theorem returnResult_scrollTs (r : Result) : (returnResult r s).scrollTs = s.scrollTs := rfl
@[simp] theorem returnResult_muxIdx (r : Result) : (returnResult r s).muxIdx = s.muxIdx := rfl
@[simp] theorem returnResult_muxPrev (r : Result) : (returnResult r s).muxPrev = s.muxPrev := rfl
@[simp] theorem returnResult_muxTs (r : Result) : (returnResult r s).muxTs = s.muxTs := rfl
@[simp] theorem returnResult_errActive (r : Result) : (returnResult r s).errActive = s.errActive := rfl
@[simp] theorem returnResult_errTs (r : Result) : (returnResult r s).errTs = s.errTs := rfl
@[simp] theorem returnResult_clock (r : Result) : (returnResult r s).clock = s.clock := rfl
@[simp] theorem returnResult_result (r : Result) : (returnResult r s).result = some r := rfl
@[simp] theorem returnResult_trace (r : Result) : (returnResult r s).trace = s.trace := rfl
@[simp] theorem returnResult_pinTrace (r : Result) : (returnResult r s).pinTrace = s.pinTrace := rfl
@[simp] theorem returnResult_host (r : Result) : (returnResult r s).host = s.host := rfl

@[simp] theorem issue_configured (now : Word) (rest : List HostInput) : (issue now rest s).configured = s.configured := rfl
@[simp] theorem issue_pinData (now : Word) (rest : List HostInput) : (issue now rest s).pinData = s.pinData := rfl
@[simp] theorem issue_pinClk (now : Word) (rest : List HostInput) : (issue now rest s).pinClk = s.pinClk := rfl
@[simp] theorem issue_pinDig (now : Word) (rest : List HostInput) : (issue now rest s).pinDig = s.pinDig := rfl
@[simp] theorem issue_inBuf (now : Word) (rest : List HostInput) : (issue now rest s).inBuf = s.inBuf := rfl
@[simp] theorem issue_symBuf (now : Word) (rest : List HostInput) : (issue now rest s).symBuf = s.symBuf := rfl
@[simp] theorem issue_symLen (now : Word) (rest : List HostInput) : (issue now rest s).symLen = s.symLen := rfl
@[simp] theorem issue_frame (now : Word) (rest : List HostInput) : (issue now rest s).frame = s.frame := rfl
@[simp] theorem issue_frameBak (now : Word) (rest : List HostInput) : (issue now rest s).frameBak = s.frameBak := rfl
@[simp] theorem issue_bakValid (now : Word) (rest : List HostInput) : (issue now rest s).bakValid = s.bakValid := rfl
@[simp] theorem issue_scrollActive (now : Word) (rest : List HostInput) : (issue now rest s).scrollActive = s.scrollActive := rfl
@[simp] theorem issue_scrollFrames (now : Word) (rest : List HostInput) : (issue now rest s).scrollFrames = s.scrollFrames := rfl
@[simp] theorem issue_scrollIdx (now : Word) (rest : List HostInput) : (issue now rest s).scrollIdx = s.scrollIdx := rfl
@[simp] theorem issue_scrollTs (now : Word) (rest : List HostInput) : (issue now rest s).scrollTs = s.scrollTs := rfl
@[simp] theorem issue_muxIdx (now : Word) (rest : List HostInput) : (issue now rest s).muxIdx = s.muxIdx := rfl
@[simp] theorem issue_muxPrev (now : Word) (rest : List HostInput) : (issue now rest s).muxPrev = s.muxPrev := rfl
@[simp] theorem issue_muxTs (now : Word) (rest : List HostInput) : (issue now rest s).muxTs = s.muxTs := rfl
@[simp] theorem issue_errActive (now : Word) (rest : List HostInput) : (issue now rest s).errActive = s.errActive := rfl
@[simp] theorem issue_errTs (now : Word) (rest : List HostInput) : (issue now rest s).errTs = s.errTs := rfl
@[simp] theorem issue_clock (now : Word) (rest : List HostInput) : (issue now rest s).clock = now := rfl
@[simp] theorem issue_result (now : Word) (rest : List HostInput) : (issue now rest s).result = none := rfl
@[simp] theorem issue_trace (now : Word) (rest : List HostInput) : (issue now rest s).trace = s.trace := rfl
@[simp] theorem issue_pinTrace (now : Word) (rest : List HostInput) : (issue now rest s).pinTrace = s.pinTrace := rfl
@[simp] theorem issue_host (now : Word) (rest : List HostInput) : (issue now rest s).host = rest := rfl

@[simp] theorem setConfigured_configured : (setConfigured s).configured = true := rfl
@[simp] theorem setConfigured_pinData : (setConfigured s).pinData = s.pinData := rfl
@[simp] theorem setConfigured_pinClk : (setConfigured s).pinClk = s.pinClk := rfl
@[simp] theorem setConfigured_pinDig : (setConfigured s).pinDig = s.pinDig := rfl
@[simp] theorem setConfigured_inBuf : (setConfigured s).inBuf = s.inBuf := rfl
@[simp] theorem setConfigured_symBuf : (setConfigured s).symBuf = s.symBuf := rfl
@[simp] theorem setConfigured_symLen : (setConfigured s).symLen = s.symLen := rfl
@[simp] theorem setConfigured_frame : (setConfigured s).frame = s.frame := rfl
@[simp] theorem setConfigured_frameBak : (setConfigured s).frameBak = s.frameBak := rfl
@[simp] theorem setConfigured_bakValid : (setConfigured s).bakValid = s.bakValid := rfl
@[simp] theorem setConfigured_scrollActive : (setConfigured s).scrollActive = s.scrollActive := rfl
@[simp] theorem setConfigured_scrollFrames : (setConfigured s).scrollFrames = s.scrollFrames := rfl
@[simp] theorem setConfigured_scrollIdx : (setConfigured s).scrollIdx = s.scrollIdx := rfl
@[simp] theorem setConfigured_scrollTs : (setConfigured s).scrollTs = s.scrollTs := rfl
@[simp] theorem setConfigured_muxIdx : (setConfigured s).muxIdx = s.muxIdx := rfl
@[simp] theorem setConfigured_muxPrev : (setConfigured s).muxPrev = s.muxPrev := rfl
@[simp] theorem setConfigured_muxTs : (setConfigured s).muxTs = s.muxTs := rfl
@[simp] theorem setConfigured_errActive : (setConfigured s).errActive = s.errActive := rfl
@[simp] theorem setConfigured_errTs : (setConfigured s).errTs = s.errTs := rfl
@[simp] theorem setConfigured_clock : (setConfigured s).clock = s.clock := rfl
@[simp] theorem setConfigured_result : (setConfigured s).result = s.result := rfl
@[simp] theorem setConfigured_trace : (setConfigured s).trace = s.trace := rfl
@[simp] theorem setConfigured_pinTrace : (setConfigured s).pinTrace = s.pinTrace := rfl
@[simp] theorem setConfigured_host : (setConfigured s).host = s.host := rfl

@[simp] theorem clearScroll_configured : (clearScroll s).configured = s.configured := rfl
@[simp] theorem clearScroll_pinData : (clearScroll s).pinData = s.pinData := rfl
@[simp] theorem clearScroll_pinClk : (clearScroll s).pinClk = s.pinClk := rfl
@[simp] theorem clearScroll_pinDig : (clearScroll s).pinDig = s.pinDig := rfl
@[simp] theorem clearScroll_inBuf : (clearScroll s).inBuf = s.inBuf := rfl
@[simp] theorem clearScroll_symBuf : (clearScroll s).symBuf = s.symBuf := rfl
@[simp] theorem clearScroll_symLen : (clearScroll s).symLen = s.symLen := rfl
@[simp] theorem clearScroll_frame : (clearScroll s).frame = s.frame := rfl
@[simp] theorem clearScroll_frameBak : (clearScroll s).frameBak = s.frameBak := rfl
@[simp] theorem clearScroll_bakValid : (clearScroll s).bakValid = s.bakValid := rfl
@[simp] theorem clearScroll_scrollActive : (clearScroll s).scrollActive = false := rfl
@[simp] theorem clearScroll_scrollFrames : (clearScroll s).scrollFrames = s.scrollFrames := rfl
@[simp] theorem clearScroll_scrollIdx : (clearScroll s).scrollIdx = s.scrollIdx := rfl
@[simp] theorem clearScroll_scrollTs : (clearScroll s).scrollTs = s.scrollTs := rfl
@[simp] theorem clearScroll_muxIdx : (clearScroll s).muxIdx = s.muxIdx := rfl
@[simp] theorem clearScroll_muxPrev : (clearScroll s).muxPrev = s.muxPrev := rfl
@[simp] theorem clearScroll_muxTs : (clearScroll s).muxTs = s.muxTs := rfl
@[simp] theorem clearScroll_errActive : (clearScroll s).errActive = s.errActive := rfl
@[simp] theorem clearScroll_errTs : (clearScroll s).errTs = s.errTs := rfl
@[simp] theorem clearScroll_clock : (clearScroll s).clock = s.clock := rfl
@[simp] theorem clearScroll_result : (clearScroll s).result = s.result := rfl
@[simp] theorem clearScroll_trace : (clearScroll s).trace = s.trace := rfl
@[simp] theorem clearScroll_pinTrace : (clearScroll s).pinTrace = s.pinTrace := rfl
@[simp] theorem clearScroll_host : (clearScroll s).host = s.host := rfl

@[simp] theorem setScroll_configured : (setScroll s).configured = s.configured := rfl
@[simp] theorem setScroll_pinData : (setScroll s).pinData = s.pinData := rfl
@[simp] theorem setScroll_pinClk : (setScroll s).pinClk = s.pinClk := rfl
@[simp] theorem setScroll_pinDig : (setScroll s).pinDig = s.pinDig := rfl
@[simp] theorem setScroll_inBuf : (setScroll s).inBuf = s.inBuf := rfl
@[simp] theorem setScroll_symBuf : (setScroll s).symBuf = s.symBuf := rfl
@[simp] theorem setScroll_symLen : (setScroll s).symLen = s.symLen := rfl
@[simp] theorem setScroll_frame : (setScroll s).frame = s.frame := rfl
@[simp] theorem setScroll_frameBak : (setScroll s).frameBak = s.frameBak := rfl
@[simp] theorem setScroll_bakValid : (setScroll s).bakValid = s.bakValid := rfl
@[simp] theorem setScroll_scrollActive : (setScroll s).scrollActive = true := rfl
@[simp] theorem setScroll_scrollFrames : (setScroll s).scrollFrames = s.scrollFrames := rfl
@[simp] theorem setScroll_scrollIdx : (setScroll s).scrollIdx = s.scrollIdx := rfl
@[simp] theorem setScroll_scrollTs : (setScroll s).scrollTs = s.scrollTs := rfl
@[simp] theorem setScroll_muxIdx : (setScroll s).muxIdx = s.muxIdx := rfl
@[simp] theorem setScroll_muxPrev : (setScroll s).muxPrev = s.muxPrev := rfl
@[simp] theorem setScroll_muxTs : (setScroll s).muxTs = s.muxTs := rfl
@[simp] theorem setScroll_errActive : (setScroll s).errActive = s.errActive := rfl
@[simp] theorem setScroll_errTs : (setScroll s).errTs = s.errTs := rfl
@[simp] theorem setScroll_clock : (setScroll s).clock = s.clock := rfl
@[simp] theorem setScroll_result : (setScroll s).result = s.result := rfl
@[simp] theorem setScroll_trace : (setScroll s).trace = s.trace := rfl
@[simp] theorem setScroll_pinTrace : (setScroll s).pinTrace = s.pinTrace := rfl
@[simp] theorem setScroll_host : (setScroll s).host = s.host := rfl

@[simp] theorem setOverlay_configured : (setOverlay s).configured = s.configured := rfl
@[simp] theorem setOverlay_pinData : (setOverlay s).pinData = s.pinData := rfl
@[simp] theorem setOverlay_pinClk : (setOverlay s).pinClk = s.pinClk := rfl
@[simp] theorem setOverlay_pinDig : (setOverlay s).pinDig = s.pinDig := rfl
@[simp] theorem setOverlay_inBuf : (setOverlay s).inBuf = s.inBuf := rfl
@[simp] theorem setOverlay_symBuf : (setOverlay s).symBuf = s.symBuf := rfl
@[simp] theorem setOverlay_symLen : (setOverlay s).symLen = s.symLen := rfl
@[simp] theorem setOverlay_frame : (setOverlay s).frame = s.frame := rfl
@[simp] theorem setOverlay_frameBak : (setOverlay s).frameBak = s.frameBak := rfl
@[simp] theorem setOverlay_bakValid : (setOverlay s).bakValid = true := rfl
@[simp] theorem setOverlay_scrollActive : (setOverlay s).scrollActive = s.scrollActive := rfl
@[simp] theorem setOverlay_scrollFrames : (setOverlay s).scrollFrames = s.scrollFrames := rfl
@[simp] theorem setOverlay_scrollIdx : (setOverlay s).scrollIdx = s.scrollIdx := rfl
@[simp] theorem setOverlay_scrollTs : (setOverlay s).scrollTs = s.scrollTs := rfl
@[simp] theorem setOverlay_muxIdx : (setOverlay s).muxIdx = s.muxIdx := rfl
@[simp] theorem setOverlay_muxPrev : (setOverlay s).muxPrev = s.muxPrev := rfl
@[simp] theorem setOverlay_muxTs : (setOverlay s).muxTs = s.muxTs := rfl
@[simp] theorem setOverlay_errActive : (setOverlay s).errActive = true := rfl
@[simp] theorem setOverlay_errTs : (setOverlay s).errTs = s.errTs := rfl
@[simp] theorem setOverlay_clock : (setOverlay s).clock = s.clock := rfl
@[simp] theorem setOverlay_result : (setOverlay s).result = s.result := rfl
@[simp] theorem setOverlay_trace : (setOverlay s).trace = s.trace := rfl
@[simp] theorem setOverlay_pinTrace : (setOverlay s).pinTrace = s.pinTrace := rfl
@[simp] theorem setOverlay_host : (setOverlay s).host = s.host := rfl

@[simp] theorem clearOverlay_configured : (clearOverlay s).configured = s.configured := rfl
@[simp] theorem clearOverlay_pinData : (clearOverlay s).pinData = s.pinData := rfl
@[simp] theorem clearOverlay_pinClk : (clearOverlay s).pinClk = s.pinClk := rfl
@[simp] theorem clearOverlay_pinDig : (clearOverlay s).pinDig = s.pinDig := rfl
@[simp] theorem clearOverlay_inBuf : (clearOverlay s).inBuf = s.inBuf := rfl
@[simp] theorem clearOverlay_symBuf : (clearOverlay s).symBuf = s.symBuf := rfl
@[simp] theorem clearOverlay_symLen : (clearOverlay s).symLen = s.symLen := rfl
@[simp] theorem clearOverlay_frame : (clearOverlay s).frame = s.frame := rfl
@[simp] theorem clearOverlay_frameBak : (clearOverlay s).frameBak = s.frameBak := rfl
@[simp] theorem clearOverlay_bakValid : (clearOverlay s).bakValid = false := rfl
@[simp] theorem clearOverlay_scrollActive : (clearOverlay s).scrollActive = s.scrollActive := rfl
@[simp] theorem clearOverlay_scrollFrames : (clearOverlay s).scrollFrames = s.scrollFrames := rfl
@[simp] theorem clearOverlay_scrollIdx : (clearOverlay s).scrollIdx = s.scrollIdx := rfl
@[simp] theorem clearOverlay_scrollTs : (clearOverlay s).scrollTs = s.scrollTs := rfl
@[simp] theorem clearOverlay_muxIdx : (clearOverlay s).muxIdx = s.muxIdx := rfl
@[simp] theorem clearOverlay_muxPrev : (clearOverlay s).muxPrev = s.muxPrev := rfl
@[simp] theorem clearOverlay_muxTs : (clearOverlay s).muxTs = s.muxTs := rfl
@[simp] theorem clearOverlay_errActive : (clearOverlay s).errActive = false := rfl
@[simp] theorem clearOverlay_errTs : (clearOverlay s).errTs = s.errTs := rfl
@[simp] theorem clearOverlay_clock : (clearOverlay s).clock = s.clock := rfl
@[simp] theorem clearOverlay_result : (clearOverlay s).result = s.result := rfl
@[simp] theorem clearOverlay_trace : (clearOverlay s).trace = s.trace := rfl
@[simp] theorem clearOverlay_pinTrace : (clearOverlay s).pinTrace = s.pinTrace := rfl
@[simp] theorem clearOverlay_host : (clearOverlay s).host = s.host := rfl

@[simp] theorem setPins_configured (p0 p1 p2 p3 p4 p5 : Byte) : (setPins p0 p1 p2 p3 p4 p5 s).configured = s.configured := rfl
@[simp] theorem setPins_pinData (p0 p1 p2 p3 p4 p5 : Byte) : (setPins p0 p1 p2 p3 p4 p5 s).pinData = p0 := rfl
@[simp] theorem setPins_pinClk (p0 p1 p2 p3 p4 p5 : Byte) : (setPins p0 p1 p2 p3 p4 p5 s).pinClk = p1 := rfl
@[simp] theorem setPins_pinDig (p0 p1 p2 p3 p4 p5 : Byte) : (setPins p0 p1 p2 p3 p4 p5 s).pinDig = #v[p2, p3, p4, p5] := rfl
@[simp] theorem setPins_inBuf (p0 p1 p2 p3 p4 p5 : Byte) : (setPins p0 p1 p2 p3 p4 p5 s).inBuf = s.inBuf := rfl
@[simp] theorem setPins_symBuf (p0 p1 p2 p3 p4 p5 : Byte) : (setPins p0 p1 p2 p3 p4 p5 s).symBuf = s.symBuf := rfl
@[simp] theorem setPins_symLen (p0 p1 p2 p3 p4 p5 : Byte) : (setPins p0 p1 p2 p3 p4 p5 s).symLen = s.symLen := rfl
@[simp] theorem setPins_frame (p0 p1 p2 p3 p4 p5 : Byte) : (setPins p0 p1 p2 p3 p4 p5 s).frame = s.frame := rfl
@[simp] theorem setPins_frameBak (p0 p1 p2 p3 p4 p5 : Byte) : (setPins p0 p1 p2 p3 p4 p5 s).frameBak = s.frameBak := rfl
@[simp] theorem setPins_bakValid (p0 p1 p2 p3 p4 p5 : Byte) : (setPins p0 p1 p2 p3 p4 p5 s).bakValid = s.bakValid := rfl
@[simp] theorem setPins_scrollActive (p0 p1 p2 p3 p4 p5 : Byte) : (setPins p0 p1 p2 p3 p4 p5 s).scrollActive = s.scrollActive := rfl
@[simp] theorem setPins_scrollFrames (p0 p1 p2 p3 p4 p5 : Byte) : (setPins p0 p1 p2 p3 p4 p5 s).scrollFrames = s.scrollFrames := rfl
@[simp] theorem setPins_scrollIdx (p0 p1 p2 p3 p4 p5 : Byte) : (setPins p0 p1 p2 p3 p4 p5 s).scrollIdx = s.scrollIdx := rfl
@[simp] theorem setPins_scrollTs (p0 p1 p2 p3 p4 p5 : Byte) : (setPins p0 p1 p2 p3 p4 p5 s).scrollTs = s.scrollTs := rfl
@[simp] theorem setPins_muxIdx (p0 p1 p2 p3 p4 p5 : Byte) : (setPins p0 p1 p2 p3 p4 p5 s).muxIdx = s.muxIdx := rfl
@[simp] theorem setPins_muxPrev (p0 p1 p2 p3 p4 p5 : Byte) : (setPins p0 p1 p2 p3 p4 p5 s).muxPrev = s.muxPrev := rfl
@[simp] theorem setPins_muxTs (p0 p1 p2 p3 p4 p5 : Byte) : (setPins p0 p1 p2 p3 p4 p5 s).muxTs = s.muxTs := rfl
@[simp] theorem setPins_errActive (p0 p1 p2 p3 p4 p5 : Byte) : (setPins p0 p1 p2 p3 p4 p5 s).errActive = s.errActive := rfl
@[simp] theorem setPins_errTs (p0 p1 p2 p3 p4 p5 : Byte) : (setPins p0 p1 p2 p3 p4 p5 s).errTs = s.errTs := rfl
@[simp] theorem setPins_clock (p0 p1 p2 p3 p4 p5 : Byte) : (setPins p0 p1 p2 p3 p4 p5 s).clock = s.clock := rfl
@[simp] theorem setPins_result (p0 p1 p2 p3 p4 p5 : Byte) : (setPins p0 p1 p2 p3 p4 p5 s).result = s.result := rfl
@[simp] theorem setPins_trace (p0 p1 p2 p3 p4 p5 : Byte) : (setPins p0 p1 p2 p3 p4 p5 s).trace = s.trace := rfl
@[simp] theorem setPins_pinTrace (p0 p1 p2 p3 p4 p5 : Byte) : (setPins p0 p1 p2 p3 p4 p5 s).pinTrace = s.pinTrace := rfl
@[simp] theorem setPins_host (p0 p1 p2 p3 p4 p5 : Byte) : (setPins p0 p1 p2 p3 p4 p5 s).host = s.host := rfl

@[simp] theorem initBuffers_configured (p : Params) : (initBuffers p s).configured = s.configured := rfl
@[simp] theorem initBuffers_pinData (p : Params) : (initBuffers p s).pinData = s.pinData := rfl
@[simp] theorem initBuffers_pinClk (p : Params) : (initBuffers p s).pinClk = s.pinClk := rfl
@[simp] theorem initBuffers_pinDig (p : Params) : (initBuffers p s).pinDig = s.pinDig := rfl
@[simp] theorem initBuffers_inBuf (p : Params) : (initBuffers p s).inBuf = memWrite s.inBuf 0 [0x00#8] := rfl
@[simp] theorem initBuffers_symBuf (p : Params) : (initBuffers p s).symBuf = memWrite s.symBuf 0 [0x00#8] := rfl
@[simp] theorem initBuffers_symLen (p : Params) : (initBuffers p s).symLen = 0 := rfl
@[simp] theorem initBuffers_frame (p : Params) : (initBuffers p s).frame = p.initFrame := rfl
@[simp] theorem initBuffers_frameBak (p : Params) : (initBuffers p s).frameBak = s.frameBak := rfl
@[simp] theorem initBuffers_bakValid (p : Params) : (initBuffers p s).bakValid = s.bakValid := rfl
@[simp] theorem initBuffers_scrollActive (p : Params) : (initBuffers p s).scrollActive = s.scrollActive := rfl
@[simp] theorem initBuffers_scrollFrames (p : Params) : (initBuffers p s).scrollFrames = s.scrollFrames := rfl
@[simp] theorem initBuffers_scrollIdx (p : Params) : (initBuffers p s).scrollIdx = s.scrollIdx := rfl
@[simp] theorem initBuffers_scrollTs (p : Params) : (initBuffers p s).scrollTs = s.scrollTs := rfl
@[simp] theorem initBuffers_muxIdx (p : Params) : (initBuffers p s).muxIdx = s.muxIdx := rfl
@[simp] theorem initBuffers_muxPrev (p : Params) : (initBuffers p s).muxPrev = s.muxPrev := rfl
@[simp] theorem initBuffers_muxTs (p : Params) : (initBuffers p s).muxTs = s.muxTs := rfl
@[simp] theorem initBuffers_errActive (p : Params) : (initBuffers p s).errActive = s.errActive := rfl
@[simp] theorem initBuffers_errTs (p : Params) : (initBuffers p s).errTs = s.errTs := rfl
@[simp] theorem initBuffers_clock (p : Params) : (initBuffers p s).clock = s.clock := rfl
@[simp] theorem initBuffers_result (p : Params) : (initBuffers p s).result = s.result := rfl
@[simp] theorem initBuffers_trace (p : Params) : (initBuffers p s).trace = s.trace := rfl
@[simp] theorem initBuffers_pinTrace (p : Params) : (initBuffers p s).pinTrace = s.pinTrace := rfl
@[simp] theorem initBuffers_host (p : Params) : (initBuffers p s).host = s.host := rfl

@[simp] theorem initTimers_configured : (initTimers s).configured = s.configured := rfl
@[simp] theorem initTimers_pinData : (initTimers s).pinData = s.pinData := rfl
@[simp] theorem initTimers_pinClk : (initTimers s).pinClk = s.pinClk := rfl
@[simp] theorem initTimers_pinDig : (initTimers s).pinDig = s.pinDig := rfl
@[simp] theorem initTimers_inBuf : (initTimers s).inBuf = s.inBuf := rfl
@[simp] theorem initTimers_symBuf : (initTimers s).symBuf = s.symBuf := rfl
@[simp] theorem initTimers_symLen : (initTimers s).symLen = s.symLen := rfl
@[simp] theorem initTimers_frame : (initTimers s).frame = s.frame := rfl
@[simp] theorem initTimers_frameBak : (initTimers s).frameBak = s.frameBak := rfl
@[simp] theorem initTimers_bakValid : (initTimers s).bakValid = s.bakValid := rfl
@[simp] theorem initTimers_scrollActive : (initTimers s).scrollActive = s.scrollActive := rfl
@[simp] theorem initTimers_scrollFrames : (initTimers s).scrollFrames = 0 := rfl
@[simp] theorem initTimers_scrollIdx : (initTimers s).scrollIdx = 0 := rfl
@[simp] theorem initTimers_scrollTs : (initTimers s).scrollTs = 0 := rfl
@[simp] theorem initTimers_muxIdx : (initTimers s).muxIdx = 0 := rfl
@[simp] theorem initTimers_muxPrev : (initTimers s).muxPrev = 0 := rfl
@[simp] theorem initTimers_muxTs : (initTimers s).muxTs = 0 := rfl
@[simp] theorem initTimers_errActive : (initTimers s).errActive = s.errActive := rfl
@[simp] theorem initTimers_errTs : (initTimers s).errTs = 0 := rfl
@[simp] theorem initTimers_clock : (initTimers s).clock = s.clock := rfl
@[simp] theorem initTimers_result : (initTimers s).result = s.result := rfl
@[simp] theorem initTimers_trace : (initTimers s).trace = s.trace := rfl
@[simp] theorem initTimers_pinTrace : (initTimers s).pinTrace = s.pinTrace := rfl
@[simp] theorem initTimers_host : (initTimers s).host = s.host := rfl

end Sys2Proof.Machine
end

