-- ==== Sys2Proof/Laws/Ops.lean ====
section
/-! SUPPORT. What the shared operations of Machine/Ops.lean do, said once each. -/

namespace Sys2Proof.Machine

open Sys2Proof

/-! Stores -/

variable {α : Type} {n : Nat}

theorem getElem_memWrite (v : Vector α n) (k : Nat) (l : List α) (i : Nat) (hi : i < n) :
    (memWrite v k l)[i] = if k ≤ i then (l[i - k]?).getD v[i] else v[i] := by
  simp [memWrite]

theorem getElem_memWrite_inside (v : Vector α n) (k : Nat) (l : List α) (i : Nat) (hi : i < n)
    (hk : k ≤ i) (hl : i - k < l.length) : (memWrite v k l)[i] = l[i - k] := by
  simp [getElem_memWrite, hk, hl]

theorem getElem_memWrite_outside (v : Vector α n) (k : Nat) (l : List α) (i : Nat) (hi : i < n)
    (h : i < k ∨ k + l.length ≤ i) : (memWrite v k l)[i] = v[i] := by
  rw [getElem_memWrite]
  split
  · have : l.length ≤ i - k := by omega
    simp [List.getElem?_eq_none this]
  · rfl

theorem memRead_of_lt (v : Vector Seg n) (i : Nat) (h : i < n) : memRead v i = v[i] := by
  simp [memRead, h]

theorem memRead_memWrite_inside (v : Vector Seg n) (k : Nat) (l : List Seg) (i : Nat) (hi : i < n)
    (hk : k ≤ i) (hl : i - k < l.length) : memRead (memWrite v k l) i = l[i - k] := by
  rw [memRead_of_lt _ _ hi, getElem_memWrite_inside v k l i hi hk hl]

theorem memRead_memWrite_outside (v : Vector Seg n) (k : Nat) (l : List Seg) (i : Nat)
    (h : i < k ∨ k + l.length ≤ i) : memRead (memWrite v k l) i = memRead v i := by
  by_cases hi : i < n
  · rw [memRead_of_lt _ _ hi, memRead_of_lt _ _ hi, getElem_memWrite_outside v k l i hi h]
  · simp [memRead, hi]

/-- A later write of at least as many entries hides an earlier one at the start of a store. -/
theorem memWrite_memWrite (v : Vector α n) (l l' : List α) (h : l.length ≤ l'.length) :
    memWrite (memWrite v 0 l) 0 l' = memWrite v 0 l' := by
  ext i hi
  by_cases hl : i < l'.length
  · rw [getElem_memWrite_inside _ 0 l' i hi (by omega) (by omega),
      getElem_memWrite_inside _ 0 l' i hi (by omega) (by omega)]
  · rw [getElem_memWrite_outside _ 0 l' i hi (by omega), getElem_memWrite_outside _ 0 l' i hi (by omega),
      getElem_memWrite_outside _ 0 l i hi (by omega)]

/-- Writing one entry that an earlier write covered. -/
theorem memWrite_memWrite_single (v : Vector α n) (l : List α) (k : Nat) (x : α) (h : k < l.length) :
    memWrite (memWrite v 0 l) k [x] = memWrite v 0 (l.set k x) := by
  ext i hi
  simp only [getElem_memWrite, Nat.zero_le, if_true, Nat.sub_zero, List.getElem?_set]
  rcases Nat.lt_trichotomy i k with hik | rfl | hik
  · simp [Nat.not_le.2 hik, Nat.ne_of_gt hik]
  · simp [h]
  · have h1 : ([x] : List α)[i - k]? = none := by
      rw [List.getElem?_eq_none]; simp only [List.length_singleton]; omega
    simp [Nat.le_of_lt hik, h1, Nat.ne_of_lt hik]

/-- The written entries, read back as a list. -/
theorem take_toList_memWrite (v : Vector α n) (l : List α) (k : Nat) (hk : k ≤ l.length) (hn : k ≤ n) :
    (memWrite v 0 l).toList.take k = l.take k := by
  apply List.ext_getElem
  · simp; omega
  · intro i h1 h2
    have hi : i < k := by simp at h1; omega
    have := getElem_memWrite_inside v 0 l i (by omega) (by omega) (by omega)
    simpa using this

/-! Ports -/

@[simp] theorem pinActions_emit (e e' : Event) (s : State) : pinActions (emit e s) e' = pinActions s e' := by
  cases e' <;> rfl

theorem emitAll_nil (s : State) : emitAll [] s = s := rfl

theorem emitAll_cons (e : Event) (es : List Event) (s : State) : emitAll (e :: es) s = emitAll es (emit e s) := rfl

/-- Emitting appends the events to the trace and their pin actions to theirs, and changes nothing else. -/
theorem emitAll_eq (es : List Event) (s : State) :
    emitAll es s = { s with trace := s.trace ++ es, pinTrace := s.pinTrace ++ es.flatMap (pinActions s) } := by
  induction es generalizing s with
  | nil => simp [emitAll_nil]
  | cons e es ih =>
    rw [emitAll_cons, ih]
    have h : pinActions (emit e s) = pinActions s := funext (pinActions_emit e · s)
    simp only [h]
    simp [emit]

/-- A report appends one event and changes nothing else. -/
theorem report_eq (kind : DiagKind) (info : Nat) (s : State) :
    report kind info s = { s with trace := s.trace ++ [.diag kind info] } := by
  simp [report, emit, pinActions]

/-! Outcomes and the clock -/

@[simp] theorem raise_eq (r : Fault) : raise r = .fault r := rfl

theorem whenConfigured_of_true {s : State} (h : s.configured = true) (k : StepOutcome) : whenConfigured s k = k := by
  simp [whenConfigured, h]

theorem whenConfigured_of_false {s : State} (h : s.configured = false) (k : StepOutcome) :
    whenConfigured s k = .fault .notConfigured := by
  simp [whenConfigured, h]

/-- A checked operation that answers a next state ran in a configured state. -/
theorem whenConfigured_next {s t : State} {k : StepOutcome} (h : whenConfigured s k = .next t) :
    s.configured = true ∧ k = .next t := by
  unfold whenConfigured at h
  split at h
  · exact ⟨‹_›, h⟩
  · cases h

theorem due_iff (now ts interval : Word) : due now ts interval = true ↔ interval ≤ now - ts :=
  decide_eq_true_iff

theorem due_eq_false_iff (now ts interval : Word) : due now ts interval = false ↔ ¬ interval ≤ now - ts :=
  decide_eq_false_iff_not

end Sys2Proof.Machine
end

