-- ==== Sys2Proof/Laws/Control.lean ====
section
/-! SUPPORT. What INIT and an undefined opcode do. -/

namespace Sys2Proof.Machine

open Sys2Proof

theorem initEvents_eq :
    initEvents = [.digitEnable 0 false, .digitEnable 1 false, .digitEnable 2 false, .digitEnable 3 false] := by
  decide

/-- INIT's next state, every field it writes and every event. -/
theorem initWith_eq (p : Params) (p0 p1 p2 p3 p4 p5 : Byte) (s : State) :
    initWith p p0 p1 p2 p3 p4 p5 s =
      { s with
        configured := true
        pinData := p0, pinClk := p1, pinDig := #v[p2, p3, p4, p5]
        inBuf := memWrite s.inBuf 0 [0x00#8]
        symBuf := memWrite s.symBuf 0 [0x00#8], symLen := 0
        frame := p.initFrame
        bakValid := false
        scrollActive := false, scrollFrames := 0, scrollIdx := 0, scrollTs := 0
        muxIdx := 0, muxPrev := 0, muxTs := 0
        errActive := false, errTs := 0
        trace := s.trace ++ [.digitEnable 0 false, .digitEnable 1 false, .digitEnable 2 false, .digitEnable 3 false]
        pinTrace := s.pinTrace ++ [.digitLine p2 false, .digitLine p3 false, .digitLine p4 false, .digitLine p5 false] } := by
  rw [initWith, emitAll_eq, initEvents_eq]
  rfl

theorem execInit_eq (p0 p1 p2 p3 p4 p5 : Byte) (s : State) :
    execInit p0 p1 p2 p3 p4 p5 s = .next (initWith hardware p0 p1 p2 p3 p4 p5 s) := rfl

theorem execUndefined_eq (op : Byte) (s : State) :
    execUndefined op s = .next { s with trace := s.trace ++ [.diag .undefinedOpcode op.toNat] } := by
  simp [execUndefined, report_eq]

end Sys2Proof.Machine
end

