-- ==== Sys2Proof/Laws/Encoder.lean ====
section
/-! SUPPORT. What the encoder ROM and its two operations do. -/

namespace Sys2Proof.Machine

open Sys2Proof

variable (p : Params)

theorem rom_of_base {c : CharCode} {sym : Symbol} (h : baseSymbol c = some sym) :
    rom p c = { code := glyphCode p sym, ok := true } := by
  simp [rom, h]

theorem rom_of_alias {c : CharCode} {d : Fin 10} (h : baseSymbol c = none) (ha : aliasDigit p c = some d) :
    rom p c = { code := addDP p (glyphCode p (.digit d)), ok := true } := by
  simp [rom, h, ha]

theorem rom_of_unsupported {c : CharCode} (h : baseSymbol c = none) (ha : aliasDigit p c = none) :
    rom p c = { code := fallbackCode p, ok := false } := by
  simp [rom, h, ha]

/-- A lookup of a supported character changes nothing. -/
theorem reportLookup_of_ok {c : CharCode} (h : (rom p c).ok = true) (s : State) : reportLookup p c s = s := by
  simp [reportLookup, h]

/-- A lookup of an unsupported character appends its report and changes nothing else. -/
theorem reportLookup_of_not_ok {c : CharCode} (h : (rom p c).ok = false) (s : State) :
    reportLookup p c s = { s with trace := s.trace ++ [.diag .unsupportedChar c.toNat] } := by
  simp [reportLookup, h, report_eq]

@[simp] theorem blankCode_hardware : blankCode hardware = 0xFF#8 := by decide

@[simp] theorem errPattern_hardware : errPattern hardware = #v[0x86#8, 0xAF#8, 0xAF#8, 0xFF#8] := by decide

@[simp] theorem fallbackCode_hardware : fallbackCode hardware = 0xC0#8 := by decide

theorem addDP_hardware (x : Seg) : addDP hardware x = x &&& 0x7F#8 := rfl

/-- AddDP clears the decimal-point bit and keeps every other bit. -/
theorem getLsbD_addDP (x : Seg) (i : Nat) : (addDP p x).getLsbD i = (x.getLsbD i && decide (i ≠ p.dpBit.val)) := by
  by_cases hi : i < 8
  · rcases Nat.lt_trichotomy i p.dpBit.val with h | h | h
    · simp [addDP, h, hi, Nat.ne_of_lt h]
    · simp [addDP, ← h, hi]
    · have : i - p.dpBit.val ≠ 0 := by omega
      simp [addDP, hi, Nat.not_lt.2 (Nat.le_of_lt h), Nat.ne_of_gt h, this]
  · simp [BitVec.getLsbD_of_ge _ _ (Nat.le_of_not_lt hi)]

/-- ENCODE's next state for a supported and for an unsupported character. -/
theorem encodeWith_eq (b : Byte) (s : State) :
    encodeWith p b s =
      { s with
        result := some (.encoded (rom p b).code (rom p b).ok)
        trace := s.trace ++ if (rom p b).ok then [] else [.diag .unsupportedChar b.toNat] } := by
  by_cases h : (rom p b).ok = true
  · simp [encodeWith, operandChar, reportLookup_of_ok p h, returnResult, h]
  · simp only [Bool.not_eq_true] at h
    simp [encodeWith, operandChar, reportLookup_of_not_ok p h, returnResult, h]

theorem adddpWith_eq (b : Byte) (s : State) : adddpWith p b s = { s with result := some (.code (addDP p b)) } := rfl

/-- SHOWERR's next state. -/
theorem beginOverlay_eq (now : Word) (s : State) :
    beginOverlay p now s =
      { s with frameBak := s.frame, frame := errPattern p, errTs := now, errActive := true, bakValid := true } := rfl

end Sys2Proof.Machine
end

