-- ==== Sys2Proof/Laws/Text.lean ====
section
/-! SUPPORT. The shape of the formatter's texts: their lengths and their characters (R85, R144, R145). -/

namespace Sys2Proof.Machine

open Sys2Proof

theorem digitsOf_digit_lt {b : Nat} (hb : 0 < b) (fuel n : Nat) : ∀ d ∈ digitsOf b fuel n, d < b := by
  induction fuel generalizing n with
  | zero => simp [digitsOf]
  | succ fuel ih =>
    intro d hd
    rw [digitsOf] at hd
    split at hd
    · simp only [List.mem_singleton] at hd; omega
    · rcases List.mem_append.1 hd with h | h
      · exact ih _ d h
      · simp only [List.mem_singleton] at h; exact h ▸ Nat.mod_lt _ hb

/-- A number below `b^k` has at most `k` digits. -/
theorem length_digitsOf_le {b : Nat} (fuel n k : Nat) (hk : 0 < k) (h : n < b ^ k) :
    (digitsOf b fuel n).length ≤ k := by
  induction fuel generalizing n k with
  | zero => simp [digitsOf]
  | succ fuel ih =>
    rw [digitsOf]
    split
    · simp only [List.length_singleton]; omega
    · obtain ⟨k, rfl⟩ : ∃ m, k = m + 1 := ⟨k - 1, by omega⟩
      rcases Nat.eq_zero_or_pos k with rfl | hk'
      · simp at h; omega
      · have := ih (n / b) k hk' (Nat.div_lt_of_lt_mul (by rwa [Nat.pow_succ, Nat.mul_comm] at h))
        simpa using this

theorem digitsOf_ne_nil (b fuel n : Nat) (h : 0 < fuel) : digitsOf b fuel n ≠ [] := by
  cases fuel with
  | zero => omega
  | succ fuel => rw [digitsOf]; split <;> simp

theorem minimalDigits_digit_lt {b : Nat} (hb : 0 < b) (n : Nat) : ∀ d ∈ minimalDigits b n, d < b :=
  digitsOf_digit_lt hb _ n

theorem length_minimalDigits_le {b : Nat} (n k : Nat) (hk : 0 < k) (h : n < b ^ k) :
    (minimalDigits b n).length ≤ k :=
  length_digitsOf_le _ n k hk h

theorem length_minimalDigits_pos (b n : Nat) : 0 < (minimalDigits b n).length :=
  List.length_pos_iff.2 (digitsOf_ne_nil b _ n (Nat.succ_pos _))

/-- The character of every digit value below 16 has a base symbol and is no terminator. -/
theorem digitChar_supported : ∀ d < 16, (baseSymbol (digitChar d)).isSome = true ∧ digitChar d ≠ 0x00#8 := by
  decide

/-- A character with a base symbol is in the encoder whitelist, whatever the parameters. -/
theorem rom_ok_of_isSome (p : Params) {c : CharCode} (h : (baseSymbol c).isSome = true) : (rom p c).ok = true := by
  obtain ⟨sym, hs⟩ := Option.isSome_iff_exists.1 h
  rw [rom, hs]

/-- Every character of a text has a base symbol and is no terminator. -/
def Printable (t : List CharCode) : Prop := ∀ c ∈ t, (baseSymbol c).isSome = true ∧ c ≠ 0x00#8

theorem Printable.ok {t : List CharCode} (h : Printable t) (p : Params) : ∀ c ∈ t, (rom p c).ok = true :=
  fun c hc => rom_ok_of_isSome p (h c hc).1

theorem Printable.ne_zero {t : List CharCode} (h : Printable t) : ∀ c ∈ t, c ≠ 0x00#8 := fun c hc => (h c hc).2

theorem printable_digits {b : Nat} (hb : 0 < b) (hb' : b ≤ 16) (n : Nat) :
    Printable ((minimalDigits b n).map digitChar) := by
  intro c hc
  obtain ⟨d, hd, rfl⟩ := List.mem_map.1 hc
  exact digitChar_supported d (Nat.lt_of_lt_of_le (minimalDigits_digit_lt hb n d hd) hb')

theorem printable_decText (v : Int) : Printable (decText v) := by
  have h := printable_digits (b := 10) (by omega) (by omega) v.natAbs
  unfold decText
  split
  · intro c hc
    rcases List.mem_cons.1 hc with rfl | hc
    · exact ⟨by decide, by decide⟩
    · exact h c hc
  · exact h

theorem printable_hexText (v : Nat) : Printable (hexText v) := printable_digits (by omega) (by omega) v

/-- R144: the text of an `s32` has 1 to 11 characters. -/
theorem length_decText_toInt (a : Word) : 0 < (decText a.toInt).length ∧ (decText a.toInt).length ≤ 11 := by
  have h1 := length_minimalDigits_pos 10 a.toInt.natAbs
  have hb := BitVec.toInt_lt (x := a)
  have hl := BitVec.le_toInt (x := a)
  have h2 := length_minimalDigits_le (b := 10) a.toInt.natAbs 10 (by omega) (by omega)
  unfold decText
  split <;> simp only [List.length_cons, List.length_map] <;> omega

/-- R145: the text of a `u32` has 1 to 8 characters. -/
theorem length_hexText_toNat (a : Word) : 0 < (hexText a.toNat).length ∧ (hexText a.toNat).length ≤ 8 := by
  have h1 := length_minimalDigits_pos 16 a.toNat
  have h2 := length_minimalDigits_le (b := 16) a.toNat 8 (by omega) (by have := a.isLt; omega)
  simp only [hexText, List.length_map]
  omega

end Sys2Proof.Machine
end

