-- ==== Sys2Proof/Laws/Formatter.lean ====
section
/-! SUPPORT. What the shared pipeline of SHOWI, SHOWF and SHOWH does to a text that fits, from InputBuffer to the static frame
or the scroll sequence, and what the three operations therefore answer. -/

namespace Sys2Proof.Machine

open Sys2Proof

/-! InputBuffer -/

theorem keptText_of_fits {m : Nat} {t : List CharCode} (h : t.length ≤ m - 1) : keptText m t = t :=
  List.take_of_length_le h

theorem overflowEvents_of_fits {m : Nat} {t : List CharCode} (h : t.length ≤ m - 1) : overflowEvents m t = [] := by
  simp [overflowEvents, h]

theorem writeText_of_fits {m : Nat} (buf : Vector CharCode m) {t : List CharCode} (h : t.length ≤ m - 1) :
    writeText buf t = memWrite buf 0 (t ++ [0x00#8]) := by
  rw [writeText, keptText_of_fits h]

/-- R141: scanning a buffer finds the text that was written, if that has no terminator of its own and fits. -/
theorem textOf_memWrite {m : Nat} (buf : Vector CharCode m) {t : List CharCode} (hz : ∀ c ∈ t, c ≠ 0x00#8)
    (h : t.length < m) : textOf (memWrite buf 0 (t ++ [0x00#8])) = t := by
  have hp := take_toList_memWrite buf (t ++ [0x00#8]) (t.length + 1) (by simp) (by omega)
  have hl : (memWrite buf 0 (t ++ [0x00#8])).toList
      = t ++ 0x00#8 :: (memWrite buf 0 (t ++ [0x00#8])).toList.drop (t.length + 1) := by
    conv => lhs; rw [← List.take_append_drop (t.length + 1) (memWrite buf 0 (t ++ [0x00#8])).toList, hp]
    rw [List.take_of_length_le (by simp), List.append_assoc, List.singleton_append]
  rw [textOf, hl, List.takeWhile_append_of_pos (fun c hc => by simpa using hz c hc)]
  simp

/-- WriteInputBuffer of a text that fits: InputBuffer and nothing else. -/
theorem writeInputBuffer_of_fits {t : List CharCode} (h : t.length ≤ maxIn - 1) (s : State) :
    writeInputBuffer t s = { s with inBuf := memWrite s.inBuf 0 (t ++ [0x00#8]) } := by
  rw [writeInputBuffer, overflowEvents_of_fits h, writeText_of_fits _ h, emitAll_nil]

/-! SymbolBuffer -/

variable (p : Params)

theorem reportLookups_of_ok {cs : List CharCode} (h : ∀ c ∈ cs, (rom p c).ok = true) (s : State) :
    reportLookups p cs s = s := by
  induction cs with
  | nil => rfl
  | cons c cs ih =>
    have h1 : reportLookup p c s = s := reportLookup_of_ok p (h c (by simp)) s
    rw [reportLookups, List.foldl_cons, h1]
    exact ih fun c hc => h c (by simp [hc])

/-- The codes of a text, with the point that SHOWF's decimal places put on one of them (R149, R151 to R153). -/
def pointCodes (t : List CharCode) (places : Option Nat) : List Seg :=
  match places with
  | none => t.map fun c => (rom p c).code
  | some dp =>
      t.mapIdx fun k c => if (k : Int) = (t.length : Int) - 1 - dp then addDP p (rom p c).code else (rom p c).code

@[simp] theorem length_pointCodes (t : List CharCode) (places : Option Nat) :
    (pointCodes p t places).length = t.length := by
  cases places <;> simp [pointCodes]

theorem getElem_pointCodes_some (t : List CharCode) (dp i : Nat) (h : i < (pointCodes p t (some dp)).length) :
    (pointCodes p t (some dp))[i] =
      if (i : Int) = (t.length : Int) - 1 - dp then addDP p (rom p (t[i]'(by simpa using h))).code
      else (rom p (t[i]'(by simpa using h))).code := by
  simp [pointCodes]

/-- BuildSymbolBuffer on an InputBuffer that holds a supported text. -/
theorem buildSymbolBuffer_of_ok {t : List CharCode} {s : State} (hs : s.inBuf.toList.take t.length = t)
    (h : ∀ c ∈ t, (rom p c).ok = true) :
    buildSymbolBuffer p t.length s =
      { s with
        symBuf := memWrite s.symBuf 0 (t.map (fun c => (rom p c).code) ++ [0x00#8])
        symLen := BitVec.ofNat 8 t.length } := by
  simp only [buildSymbolBuffer, hs, reportLookups_of_ok p h]

/-- The text with its point, in SymbolBuffer: what steps 5 and 6 of R140 leave there. -/
theorem applyPoint_codes (v : Vector Seg bufCap) (t : List CharCode) (dp : Nat) (s : State) (ht : t.length < bufCap)
    (hs : s.symBuf = memWrite v 0 (t.map (fun c => (rom p c).code) ++ [0x00#8])) :
    applyPoint p ((t.length : Int) - 1 - dp) t.length s =
      { s with symBuf := memWrite v 0 (pointCodes p t (some dp) ++ [0x00#8]) } := by
  unfold applyPoint
  split
  · rename_i hp
    obtain ⟨k, hk⟩ : ∃ k : Nat, (t.length : Int) - 1 - dp = k := ⟨_, (Int.toNat_of_nonneg hp.1).symm⟩
    have hkl : k < t.length := by omega
    have hr : memRead s.symBuf k = (rom p t[k]).code := by
      rw [hs, memRead_memWrite_inside _ _ _ _ (by omega) (by omega) (by simp; omega)]
      simp [hkl]
    rw [hk, Int.toNat_natCast, hr, hs, memWrite_memWrite_single _ _ _ _ (by simp; omega)]
    suffices h : (t.map (fun c => (rom p c).code) ++ [0x00#8]).set k (addDP p (rom p t[k]).code)
        = pointCodes p t (some dp) ++ [0x00#8] by rw [h]
    apply List.ext_getElem
    · simp
    · intro i h1 h2
      rw [List.getElem_set]
      by_cases hi : i < t.length
      · rw [List.getElem_append_left (by simpa using hi), List.getElem_append_left (by simpa using hi),
          getElem_pointCodes_some, hk]
        by_cases hik : i = k
        · subst hik; simp
        · simp [hik, Ne.symm hik]
      · have : i = t.length := by simp at h2; omega
        subst this
        simp [Nat.ne_of_lt hkl]
  · rename_i hp
    have : pointCodes p t (some dp) = t.map fun c => (rom p c).code := by
      apply List.ext_getElem
      · simp
      · intro i h1 h2
        have hi : i < t.length := by simpa using h2
        have : ¬ ((i : Int) = (t.length : Int) - 1 - dp) := by omega
        simp [getElem_pointCodes_some, this]
    rw [this, ← hs]

/-! Presentation -/

@[simp] theorem length_scrollSequence (codes : List Seg) :
    (scrollSequence p codes).length = (nDigits - 1) + codes.length + nDigits := by
  simp only [scrollSequence, List.length_append, List.length_replicate]

/-- The static frame of codes that stand at the start of SymbolBuffer: the codes right-aligned behind blanks. -/
theorem getElem_staticFrame (codes : List Seg) (v : Vector Seg bufCap) (hc : codes.length ≤ nDigits) (j : Nat)
    (hj : j < nDigits) :
    (staticFrame p codes.length (memWrite v 0 (codes ++ [0x00#8])))[j] =
      if h : j < nDigits - codes.length then blankCode p else codes[j - (nDigits - codes.length)]'(by omega) := by
  simp only [staticFrame, Vector.getElem_ofFn]
  split
  · rfl
  · rw [memRead_memWrite_inside _ _ _ _ (by have : nDigits = 4 := rfl; have : bufCap = 20 := rfl; omega) (by omega) (by simp; omega)]
    simp only [Nat.sub_zero]
    rw [List.getElem_append_left (by omega)]

/-- Steps 3 to 6 of R140 for a printable text that fits. -/
theorem showText_eq {t : List CharCode} (hp : Printable t) (hl : t.length ≤ maxIn - 1) (places : Option Nat) (s : State) :
    showText p t places s =
      selectPresentation p t.length
        { s with
          inBuf := memWrite s.inBuf 0 (t ++ [0x00#8])
          symBuf := memWrite s.symBuf 0 (pointCodes p t places ++ [0x00#8])
          symLen := BitVec.ofNat 8 t.length } := by
  have hm : t.length < maxIn := by have : maxIn = 13 := rfl; omega
  have hb : t.length < bufCap := by have : maxIn = 13 := rfl; have : bufCap = 20 := rfl; omega
  have hr : renderedLength { s with inBuf := memWrite s.inBuf 0 (t ++ [0x00#8]) } = t.length := by
    simp only [renderedLength, textOf_memWrite _ hp.ne_zero hm]
  have ht : (memWrite s.inBuf 0 (t ++ [0x00#8])).toList.take t.length = t := by
    rw [take_toList_memWrite _ _ _ (by simp) (by omega)]; simp
  simp only [showText, writeInputBuffer_of_fits hl, hr]
  rw [buildSymbolBuffer_of_ok p (s := { s with inBuf := memWrite s.inBuf 0 (t ++ [0x00#8]) }) ht (hp.ok p)]
  cases places with
  | none => rfl
  | some dp => simp only; rw [applyPoint_codes p s.symBuf (ht := hb) (hs := ?_)]; rfl

/-- A text of at most `N` characters is shown static (R155, R157, R158). -/
theorem showText_static {t : List CharCode} (hp : Printable t) (hl : t.length ≤ nDigits) (places : Option Nat) (s : State) :
    showText p t places s =
      { s with
        inBuf := memWrite s.inBuf 0 (t ++ [0x00#8])
        symBuf := memWrite s.symBuf 0 (pointCodes p t places ++ [0x00#8])
        symLen := BitVec.ofNat 8 t.length
        frame := staticFrame p t.length (memWrite s.symBuf 0 (pointCodes p t places ++ [0x00#8]))
        scrollActive := false } := by
  rw [showText_eq p hp (by have : nDigits = 4 := rfl; have : maxIn = 13 := rfl; omega)]
  simp [selectPresentation, Nat.not_lt.2 hl, buildStatic, clearScroll]

/-- A longer text is shown scrolling (R155, R159). -/
theorem showText_scroll {t : List CharCode} (hp : Printable t) (hl : t.length ≤ maxIn - 1) (hn : nDigits < t.length)
    (places : Option Nat) (s : State) :
    showText p t places s =
      { s with
        inBuf := memWrite s.inBuf 0 (t ++ [0x00#8])
        symBuf := memWrite s.symBuf 0 (scrollSequence p (pointCodes p t places) ++ [0x00#8])
        symLen := BitVec.ofNat 8 ((nDigits - 1) + t.length + nDigits)
        scrollFrames := BitVec.ofNat 8 (t.length + nDigits)
        scrollIdx := 0
        scrollActive := true } := by
  have hm : maxIn = 13 := rfl
  have hN : nDigits = 4 := rfl
  have hB : bufCap = 20 := rfl
  have ht : (memWrite s.symBuf 0 (pointCodes p t places ++ [0x00#8])).toList.take t.length = pointCodes p t places := by
    rw [take_toList_memWrite _ _ _ (by simp) (by omega)]; simp
  have hf : (nDigits - 1) + t.length + nDigits - nDigits + 1 = t.length + nDigits := by omega
  rw [showText_eq p hp hl]
  simp only [selectPresentation, hn, if_true, buildScroll, ht, setScroll, length_scrollSequence, length_pointCodes, hf]
  rw [memWrite_memWrite _ _ _ (by simp; omega)]

/-- Showing a text writes nothing but InputBuffer, SymbolBuffer, the frame and the scroll fields. -/
theorem showText_writes {t : List CharCode} (hp : Printable t) (hl : t.length ≤ maxIn - 1) (places : Option Nat) (s : State) :
    showText p t places s =
      { s with
        inBuf := (showText p t places s).inBuf
        symBuf := (showText p t places s).symBuf
        symLen := (showText p t places s).symLen
        frame := (showText p t places s).frame
        scrollActive := (showText p t places s).scrollActive
        scrollFrames := (showText p t places s).scrollFrames
        scrollIdx := (showText p t places s).scrollIdx } := by
  by_cases hn : nDigits < t.length
  · rw [showText_scroll p hp hl hn]
  · rw [showText_static p hp (Nat.not_lt.1 hn)]

theorem showText_host {t : List CharCode} (hp : Printable t) (hl : t.length ≤ maxIn - 1) (places : Option Nat) (s : State) :
    (showText p t places s).host = s.host := by
  rw [showText_writes p hp hl]

/-! The three operations -/

theorem execShowi_eq {s : State} (h : s.configured = true) (a : Word) :
    execShowi a s = .next (showText hardware (decText a.toInt) none s) := by
  simp [execShowi, showiWith, whenConfigured_of_true h, operandS32]

theorem execShowh_eq {s : State} (h : s.configured = true) (a : Word) :
    execShowh a s = .next (showText hardware (hexText a.toNat) none s) := by
  simp [execShowh, showhWith, whenConfigured_of_true h, operandU32]

theorem execShowf_eq {s : State} (h : s.configured = true) {a v : Word} {b : Byte} (hf : fscaleDefault a b = some v) :
    execShowf a b s = .next (showText hardware (decText v.toInt) (some b.toNat) s) := by
  have : hardware.fscale a b = some v := hf
  simp [execShowf, showfWith, whenConfigured_of_true h, this, operandS32, operandPlaces]

theorem execShowf_fault {s : State} (h : s.configured = true) {a : Word} {b : Byte} (hf : fscaleDefault a b = none) :
    execShowf a b s = .fault .floatRange := by
  have : hardware.fscale a b = none := hf
  simp [execShowf, showfWith, whenConfigured_of_true h, this]

theorem execShowrsv_eq {s : State} (h : s.configured = true) (a : Word) (b : Byte) :
    execShowrsv a b s = .next { s with trace := s.trace ++ [.diag .unknownSelector 3] } := by
  simp [execShowrsv, whenConfigured_of_true h, report_eq, reservedSelector]

end Sys2Proof.Machine
end

