-- ==== Sys2Proof/Laws/Loop.lean ====
section
/-! SUPPORT. What STEP and its three parts do: one lemma for each case of each check. -/

namespace Sys2Proof.Machine

open Sys2Proof

variable (p : Params) (now : Word)

/-- The three events of a switch from a state (R180, R183). -/
def switchEvents (s : State) : List Event :=
  [.digitEnable s.muxPrev false, .digitEnable (s.muxIdx + 1) true, .shiftOut s.frame[s.muxIdx + 1]]

/-- A switch, when its check passes. -/
theorem muxSwitch_of_due {s : State} (h : due now s.muxTs p.refreshMs = true) :
    muxSwitch p now s =
      { s with
        muxIdx := s.muxIdx + 1
        muxPrev := s.muxIdx + 1
        muxTs := now
        trace := s.trace ++ switchEvents s
        pinTrace := s.pinTrace ++ (switchEvents s).flatMap (pinActions s) } := by
  simp only [muxSwitch, h, if_true, emit, switchEvents, pinActions]
  simp [List.append_assoc, pinActions]

/-- No switch, when its check does not pass. -/
theorem muxSwitch_of_not_due {s : State} (h : due now s.muxTs p.refreshMs = false) : muxSwitch p now s = s := by
  simp [muxSwitch, h]

theorem errorExpiry_of_due {s : State} (h : due now s.errTs p.errorMs = true) :
    errorExpiry p now s = { s with frame := s.frameBak, errActive := false, bakValid := false } := by
  simp [errorExpiry, h, clearOverlay]

theorem errorExpiry_of_not_due {s : State} (h : due now s.errTs p.errorMs = false) : errorExpiry p now s = s := by
  simp [errorExpiry, h]

theorem scrollAdvance_of_due {s : State} (h : due now s.scrollTs p.scrollMs = true) :
    scrollAdvance p now s =
      { s with
        frame := scrollWindow s.symBuf s.scrollIdx.toNat
        scrollTs := now
        scrollIdx := nextScrollIdx s.scrollIdx s.scrollFrames } := by
  simp [scrollAdvance, h]

theorem scrollAdvance_of_not_due {s : State} (h : due now s.scrollTs p.scrollMs = false) :
    scrollAdvance p now s = s := by
  simp [scrollAdvance, h]

theorem overlayOrScroll_of_error {s : State} (h : s.errActive = true) :
    overlayOrScroll p now s = errorExpiry p now s := by
  simp [overlayOrScroll, h]

theorem overlayOrScroll_of_scroll {s : State} (h : s.errActive = false) (hs : s.scrollActive = true) :
    overlayOrScroll p now s = scrollAdvance p now s := by
  simp [overlayOrScroll, h, hs]

theorem overlayOrScroll_of_neither {s : State} (h : s.errActive = false) (hs : s.scrollActive = false) :
    overlayOrScroll p now s = s := by
  simp [overlayOrScroll, h, hs]

/-- The second part of STEP writes nothing but the frame, the overlay flags and the scroll's index and timestamp. -/
theorem overlayOrScroll_writes (s : State) :
    overlayOrScroll p now s =
      { s with
        frame := (overlayOrScroll p now s).frame
        errActive := (overlayOrScroll p now s).errActive
        bakValid := (overlayOrScroll p now s).bakValid
        scrollTs := (overlayOrScroll p now s).scrollTs
        scrollIdx := (overlayOrScroll p now s).scrollIdx } := by
  unfold overlayOrScroll errorExpiry scrollAdvance clearOverlay
  repeat' split
  all_goals rfl

/-- The switch writes nothing but the multiplex fields and the output traces. -/
theorem muxSwitch_writes (s : State) :
    muxSwitch p now s =
      { s with
        muxIdx := (muxSwitch p now s).muxIdx
        muxPrev := (muxSwitch p now s).muxPrev
        muxTs := (muxSwitch p now s).muxTs
        trace := (muxSwitch p now s).trace
        pinTrace := (muxSwitch p now s).pinTrace } := by
  cases h : due now s.muxTs p.refreshMs with
  | true => rw [muxSwitch_of_due p now h]
  | false => rw [muxSwitch_of_not_due p now h]

/-- STEP in a configured state. -/
theorem execStep_eq {s : State} (h : s.configured = true) :
    execStep s = .next (overlayOrScroll hardware s.clock (muxSwitch hardware s.clock s)) := by
  simp [execStep, stepWith, whenConfigured_of_true h, clockRead]

end Sys2Proof.Machine
end

