-- ==== Sys2Proof/Laws/PerInstr.lean ====
section
/-! SUPPORT. The statements that are made for every operation, one lemma for each constructor of Instr. -/

namespace Sys2Proof.Laws

open Sys2Proof

/-- The command of an operation decodes to it, puts nothing on a port outside its format, and its opcode has its format
(R87, R88). -/
def Canonical.Statement (i : Instr) : Prop :=
  decode (encode i) = .instr i ∧ (encode i).wf i.format = true ∧ formatOf (encode i).op = some i.format

theorem Canonical.init (p0 p1 p2 p3 p4 p5 : Byte) : Canonical.Statement (.init p0 p1 p2 p3 p4 p5) :=
  ⟨rfl, rfl, rfl⟩

theorem Canonical.step : Canonical.Statement .step := ⟨rfl, rfl, rfl⟩

theorem Canonical.showi (a : Word) : Canonical.Statement (.showi a) := ⟨rfl, rfl, rfl⟩

theorem Canonical.showf (a : Word) (b : Byte) : Canonical.Statement (.showf a b) := ⟨rfl, rfl, rfl⟩

theorem Canonical.showh (a : Word) : Canonical.Statement (.showh a) := ⟨rfl, rfl, rfl⟩

theorem Canonical.showrsv (a : Word) (b : Byte) : Canonical.Statement (.showrsv a b) := ⟨rfl, rfl, rfl⟩

theorem Canonical.showerr : Canonical.Statement .showerr := ⟨rfl, rfl, rfl⟩

theorem Canonical.encode (b : CharCode) : Canonical.Statement (.encode b) := ⟨rfl, rfl, rfl⟩

theorem Canonical.adddp (b : Seg) : Canonical.Statement (.adddp b) := ⟨rfl, rfl, rfl⟩

end Sys2Proof.Laws
end

