-- ==== Sys2Proof/Laws/Step.lean ====
section
/-! SUPPORT. The inversion lemmas: what a step can do, and what an operation that answers a next state did. -/

namespace Sys2Proof.Machine

open Sys2Proof

theorem step_idle {s : State} (h : s.host = []) : step s = .next s := by
  simp [step, h]

theorem step_overlap {s : State} {x : HostInput} {rest : List HostInput} (h : s.host = x :: rest)
    (ho : x.overlaps = true) : step s = .fault .unserialised := by
  simp [step, h, ho]

theorem step_instr {s : State} {x : HostInput} {rest : List HostInput} {i : Instr} (h : s.host = x :: rest)
    (ho : x.overlaps = false) (hd : decode x.cmd = .instr i) : step s = exec i (issue x.now rest s) := by
  simp [step, h, ho, runCommand, hd]

theorem step_undefined {s : State} {x : HostInput} {rest : List HostInput} {op : Byte} (h : s.host = x :: rest)
    (ho : x.overlaps = false) (hd : decode x.cmd = .undefined op) : step s = execUndefined op (issue x.now rest s) := by
  simp [step, h, ho, runCommand, hd]

/-- Everything a step that answers a next state can have done. -/
theorem step_cases {s t : State} (h : step s = .next t) :
    (s.host = [] ∧ t = s) ∨
    (∃ x rest i, s.host = x :: rest ∧ x.overlaps = false ∧ decode x.cmd = .instr i ∧
      exec i (issue x.now rest s) = .next t) ∨
    (∃ x rest op, s.host = x :: rest ∧ x.overlaps = false ∧ decode x.cmd = .undefined op ∧
      execUndefined op (issue x.now rest s) = .next t) := by
  cases hh : s.host with
  | nil =>
    rw [step_idle hh] at h
    cases h
    exact .inl ⟨rfl, rfl⟩
  | cons x rest =>
    cases ho : x.overlaps with
    | true => rw [step_overlap hh ho] at h; cases h
    | false =>
      cases hd : decode x.cmd with
      | instr i =>
        rw [step_instr hh ho hd] at h
        exact .inr (.inl ⟨x, rest, i, rfl, ho, hd, h⟩)
      | undefined op =>
        rw [step_undefined hh ho hd] at h
        exact .inr (.inr ⟨x, rest, op, rfl, ho, hd, h⟩)

/-! One inversion lemma for each operation that checks `configured`. -/

theorem exec_step_next {s t : State} (h : exec .step s = .next t) :
    s.configured = true ∧ t = overlayOrScroll hardware s.clock (muxSwitch hardware s.clock s) := by
  obtain ⟨hc, hk⟩ := whenConfigured_next h
  cases hk
  exact ⟨hc, rfl⟩

theorem exec_showi_next {a : Word} {s t : State} (h : exec (.showi a) s = .next t) :
    s.configured = true ∧ t = showText hardware (decText a.toInt) none s := by
  obtain ⟨hc, hk⟩ := whenConfigured_next h
  cases hk
  exact ⟨hc, rfl⟩

theorem exec_showh_next {a : Word} {s t : State} (h : exec (.showh a) s = .next t) :
    s.configured = true ∧ t = showText hardware (hexText a.toNat) none s := by
  obtain ⟨hc, hk⟩ := whenConfigured_next h
  cases hk
  exact ⟨hc, rfl⟩

theorem exec_showf_next {a : Word} {b : Byte} {s t : State} (h : exec (.showf a b) s = .next t) :
    s.configured = true ∧ ∃ v, fscaleDefault a b = some v ∧
      t = showText hardware (decText v.toInt) (some b.toNat) s := by
  obtain ⟨hc, hk⟩ := whenConfigured_next h
  cases hf : fscaleDefault a b with
  | none => rw [show exec (.showf a b) s = _ from execShowf_fault hc hf] at h; cases h
  | some v =>
    rw [show exec (.showf a b) s = _ from execShowf_eq hc hf] at h
    cases h
    exact ⟨hc, v, rfl, rfl⟩

theorem exec_showrsv_next {a : Word} {b : Byte} {s t : State} (h : exec (.showrsv a b) s = .next t) :
    s.configured = true ∧ t = { s with trace := s.trace ++ [.diag .unknownSelector 3] } := by
  obtain ⟨hc, _⟩ := whenConfigured_next h
  rw [show exec (.showrsv a b) s = _ from execShowrsv_eq hc a b] at h
  cases h
  exact ⟨hc, rfl⟩

theorem exec_showerr_next {s t : State} (h : exec .showerr s = .next t) :
    s.configured = true ∧ t = beginOverlay hardware s.clock s := by
  obtain ⟨hc, hk⟩ := whenConfigured_next h
  cases hk
  exact ⟨hc, rfl⟩

theorem exec_init_next {p0 p1 p2 p3 p4 p5 : Byte} {s t : State} (h : exec (.init p0 p1 p2 p3 p4 p5) s = .next t) :
    t = initWith hardware p0 p1 p2 p3 p4 p5 s := by
  cases h; rfl

theorem exec_encode_next {b : Byte} {s t : State} (h : exec (.encode b) s = .next t) : t = encodeWith hardware b s := by
  cases h; rfl

theorem exec_adddp_next {b : Byte} {s t : State} (h : exec (.adddp b) s = .next t) : t = adddpWith hardware b s := by
  cases h; rfl

/-- The text a SHOW operation formats, and where its point goes: SHOWI, SHOWH and SHOWF show a printable text of 1 to 11
characters. -/
theorem showText_operand_fits (a : Word) :
    Printable (decText a.toInt) ∧ (decText a.toInt).length ≤ maxIn - 1 ∧
    Printable (hexText a.toNat) ∧ (hexText a.toNat).length ≤ maxIn - 1 := by
  have h1 := (length_decText_toInt a).2
  have h2 := (length_hexText_toNat a).2
  have hm : maxIn - 1 = 12 := rfl
  exact ⟨printable_decText _, by omega, printable_hexText _, by omega⟩

end Sys2Proof.Machine
end

