-- ==== Sys2Proof/Laws/Run.lean ====
section
/-! SUPPORT. Runs of the host's operations, one operation at a time. -/

namespace Sys2Proof.Machine

open Sys2Proof Sys2Proof.Safety

/-- No operation touches the commands the host has yet to issue. -/
theorem exec_host {i : Instr} {s t : State} (h : exec i s = .next t) : t.host = s.host := by
  cases i with
  | init p0 p1 p2 p3 p4 p5 => rw [exec_init_next h, initWith_eq]
  | step =>
    obtain ⟨_, rfl⟩ := exec_step_next h
    rw [overlayOrScroll_writes, muxSwitch_writes]
  | showi a => obtain ⟨_, rfl⟩ := exec_showi_next h; exact showText_host _ (showText_operand_fits a).1 (showText_operand_fits a).2.1 _ _
  | showf a b =>
    obtain ⟨_, v, _, rfl⟩ := exec_showf_next h
    exact showText_host _ (showText_operand_fits v).1 (showText_operand_fits v).2.1 _ _
  | showh a =>
    obtain ⟨_, rfl⟩ := exec_showh_next h
    exact showText_host _ (showText_operand_fits a).2.2.1 (showText_operand_fits a).2.2.2 _ _
  | showrsv a b => obtain ⟨_, rfl⟩ := exec_showrsv_next h; rfl
  | showerr => obtain ⟨_, rfl⟩ := exec_showerr_next h; rfl
  | encode b => rw [exec_encode_next h, encodeWith_eq]
  | adddp b => rw [exec_adddp_next h, adddpWith_eq]

/-- A run of any machine that takes one step or more begins with a step. -/
theorem core_run_succ (M : Host.Core) {k : Nat} {s t : M.State} (h : M.step s = .next t) :
    M.run (k + 1) s = M.run k t := by
  rw [Host.Core.run, h]

/-- A run of one step or more begins with a step. -/
theorem run_succ_of_next {k : Nat} {s t : State} (h : step s = .next t) :
    Host.Core.run Sys2Proof.core (k + 1) s = Host.Core.run Sys2Proof.core k t :=
  core_run_succ Sys2Proof.core h

/-- The state in which an operation of a program runs, once it is issued. -/
def issued (s : State) (now : Word) (prog : List (Instr × Word)) : State :=
  issue now (prog.map fun x => inTurn x.1 x.2) s

/-- A run starts with its first operation. -/
theorem runProgram_cons {s t : State} {i : Instr} {now : Word} {prog : List (Instr × Word)}
    (h : exec i (issued s now prog) = .next t) : runProgram s ((i, now) :: prog) = runProgram t prog := by
  have hd : decode (encode i) = .instr i := by cases i <;> rfl
  have hs : step (withProgram s ((i, now) :: prog)) = .next t := by
    rw [step_instr (x := inTurn i now) (rest := prog.map fun x => inTurn x.1 x.2) (i := i) rfl rfl hd]
    exact h
  have ht : withProgram t prog = t := by
    have := exec_host h
    simp only [withProgram, issued, issue_host] at *
    rw [← this]
  exact (run_succ_of_next hs).trans (by rw [runProgram, ht])

/-- An empty run changes nothing. -/
theorem runProgram_nil (s : State) : runProgram s [] = .next { s with host := [] } := rfl

end Sys2Proof.Machine
end

