-- ==== Sys2Proof/Tests/Slice0.lean ====
section
/-! SUPPORT. The model's own tests. Every expected value is from spec/95_test_vectors.md or worked by hand from the rule that the
docstring names. First the smoke tests of WellFormed, then decoding, then each operation, then one witness or more for every
obligation that has hypotheses. -/

namespace Sys2Proof.Tests

open Sys2Proof Sys2Proof.Machine Sys2Proof.Safety

/-! ## WellFormed: an ill-formed term for each check -/

/-- R87: format N lists no port. -/
theorem test_wf_refuses_a_in_N : ({ Command.bare 0x02 with a := 1 }).wf .N = false := by decide

/-- R87: format V lists no `B`. -/
theorem test_wf_refuses_b_in_V : ({ Command.bare 0x10 with a := 5, b := 1 }).wf .V = false := by decide

/-- R87: format VF lists no pin port. -/
theorem test_wf_refuses_p_in_VF : ({ Command.bare 0x11 with a := 5, b := 1, p5 := 1 }).wf .VF = false := by decide

/-- R87: format C lists no `A`. -/
theorem test_wf_refuses_a_in_C : ({ Command.bare 0x30 with a := 1 }).wf .C = false := by decide

/-- R87: format P lists no `B`. -/
theorem test_wf_refuses_b_in_P : ({ Command.bare 0x01 with b := 1, p0 := 2 }).wf .P = false := by decide

/-- R80: two LEDs on one bit are refused. -/
theorem test_wf_refuses_shared_bit : ({ hardware with dpBit := 6 }).wf = false := by decide

/-- R84: two digits with one dot alias are refused. -/
theorem test_wf_refuses_shared_alias : ({ hardware with dotAlias := fun _ => 0x29 }).wf = false := by decide

/-- This hardware's parameters are well-formed. -/
theorem test_wf_hardware : hardware.wf = true := by decide

/-! ## Decoding: words written out from the map of R88, one for every constructor (95_test_vectors.md section 3) -/

theorem test_decode_init : decodeTableWord 56 0x07060504030201 = some (.init 2 3 4 5 6 7) := by decide

theorem test_decode_step : decodeTableWord 8 0b00000010 = some .step := by decide

theorem test_decode_showi : decodeTableWord 40 0xFFFFFC1910 = some (.showi 0xFFFFFC19) := by decide

theorem test_decode_showf : decodeTableWord 48 0x02400CB78011 = some (.showf 0x400CB780 2) := by decide

theorem test_decode_showh : decodeTableWord 40 0xDEADBEEF12 = some (.showh 0xDEADBEEF) := by decide

theorem test_decode_showrsv : decodeTableWord 48 0x013F80000013 = some (.showrsv 0x3F800000 1) := by decide

theorem test_decode_showerr : decodeTableWord 8 0b00100000 = some .showerr := by decide

theorem test_decode_encode : decodeTableWord 16 0x4530 = some (.encode 0x45) := by decide

theorem test_decode_adddp : decodeTableWord 16 0xB031 = some (.adddp 0xB0) := by decide

/-- V6: the undefined opcodes of the vector table. -/
theorem test_decode_undefined : [0x00, 0x03, 0x14, 0x21, 0x32, 0xFF].all (fun w => decodeTableWord 8 w == none) = true := by
  decide

/-! ## States to run on -/

/-- The state an operation leaves; the test's own state where it stops, so tests that use it also ask that it does not. -/
def after (i : Instr) (s : State) : State := (nextState (exec i s)).getD s

/-- Power-on followed by `INIT 2, 3, 4, 5, 6, 7`. -/
def ready : State := after (.init 2 3 4 5 6 7) State.reset

/-- The clock port at a value. -/
def atTime (now : Word) (s : State) : State := { s with clock := now }

/-- `SHOWI 12345` on the configured block: a scroll of nine windows (V7). -/
def scrolling : State := after (.showi 12345) ready

/-- `SHOWERR ; now=10` on the configured block (P3). -/
def inError : State := after .showerr (atTime 10 ready)

/-- The host's next command. -/
def issuing (i : Instr) (now : Word) (s : State) : State := withProgram s [(i, now)]

/-! ## INIT, SHOWRSV and the undefined opcodes (V6, V10) -/

/-- V10: INIT's pins, frame and events. -/
theorem test_init :
    (nextState (exec (.init 2 3 4 5 6 7) State.reset)).map
        (fun t => (t.configured, [t.pinData, t.pinClk] ++ t.pinDig.toList, t.frame.toList, t.trace)) =
      some (true, [2, 3, 4, 5, 6, 7], [0, 0, 0, 0],
        [.digitEnable 0 false, .digitEnable 1 false, .digitEnable 2 false, .digitEnable 3 false]) := by
  decide

/-- V10: INIT during an overlay discards it. -/
theorem test_init_discards_overlay :
    (nextState (exec (.init 2 3 4 5 6 7) inError)).map (fun t => (t.errActive, t.bakValid)) = some (false, false) := by
  decide

/-- V10: before INIT the check comes before the report of SHOWRSV. -/
theorem test_not_configured :
    [Instr.step, .showi 1, .showf 0 0, .showh 1, .showrsv 0 0, .showerr].all
      (fun i => faultReason (exec i State.reset) == some .notConfigured) = true := by
  decide

/-- V6: SHOWRSV reports the selector 3 and leaves the frame alone. -/
theorem test_showrsv :
    (nextState (exec (.showrsv 0x3F800000 0) (after (.showi 7) ready))).map (fun t => (t.frame, t.trace.drop 4)) =
      some (#v[0xFF, 0xFF, 0xFF, 0xF8], [.diag .unknownSelector 3]) := by
  decide

/-- V6: opcode `0xFF` before INIT is reported, with no fault. -/
theorem test_undefined_opcode :
    (nextState (runCommand (Command.bare 0xFF) State.reset)).map (fun t => t.trace) = some [.diag .undefinedOpcode 0xFF] := by
  decide

/-! ## ENCODE and ADDDP (V1, V2) -/

/-- V1: a dot alias, before INIT. -/
theorem test_encode_alias :
    (nextState (exec (.encode 0x5E) State.reset)).map (fun t => (t.result, t.trace)) =
      some (some (.encoded 0x02 true), []) := by
  decide

/-- V1: an unsupported character falls back and is reported. -/
theorem test_encode_unsupported :
    (nextState (exec (.encode 0x47) State.reset)).map (fun t => (t.result, t.trace)) =
      some (some (.encoded 0xC0 false), [.diag .unsupportedChar 0x47]) := by
  decide

/-- V2: blank to a lone point. -/
theorem test_adddp_blank : (nextState (exec (.adddp 0xFF) State.reset)).map (fun t => t.result) = some (some (.code 0x7F)) := by
  decide

/-- V2: the point already lit. -/
theorem test_adddp_idempotent : (nextState (exec (.adddp 0x12) State.reset)).map (fun t => t.result) = some (some (.code 0x12)) := by
  decide

/-! ## SHOWI, SHOWH and SHOWF (V3 to V5) -/

/-- V3: the longest static text. -/
theorem test_showi_static :
    (nextState (exec (.showi 0xFFFFFC19) ready)).map (fun t => (t.frame, t.scrollActive)) =
      some (#v[0xBF, 0x90, 0x90, 0x90], false) := by
  decide

/-- V3: the longest text of all scrolls in 15 frames, and its terminator stands at entry 18. -/
theorem test_showi_scroll :
    (nextState (exec (.showi 0x80000000) ready)).map
        (fun t => (t.symBuf.toList.take 19, t.symLen, t.scrollFrames, t.scrollActive, t.frame)) =
      some ([0xFF, 0xFF, 0xFF, 0xBF, 0xA4, 0xF9, 0x99, 0xF8, 0x99, 0x80, 0xB0, 0x82, 0x99, 0x80, 0xFF, 0xFF, 0xFF, 0xFF, 0x00],
        18, 15, true, #v[0, 0, 0, 0]) := by
  decide

/-- V4: lower-case letters, one leading blank. -/
theorem test_showh_static :
    (nextState (exec (.showh 0x1AD) ready)).map (fun t => t.frame) = some #v[0xFF, 0xF9, 0x88, 0xA1] := by
  decide

/-- V4: eight hex digits scroll in 12 frames. -/
theorem test_showh_scroll :
    (nextState (exec (.showh 0xDEADBEEF) ready)).map (fun t => (t.symBuf.toList.take 16, t.scrollFrames)) =
      some ([0xFF, 0xFF, 0xFF, 0xA1, 0x86, 0x88, 0xA1, 0x83, 0x86, 0x86, 0x8E, 0xFF, 0xFF, 0xFF, 0xFF, 0x00], 12) := by
  decide

/-- The frame SHOWF leaves on the configured block. -/
def floatFrame (a : Word) (b : Byte) : Option Frame := (nextState (exec (.showf a b) ready)).map fun t => t.frame

/-- V5: truncation toward zero and the places of the point, rows -2.75, -0.5, -0.05, 99.99, 0.05 and 0.0 with 38 places. -/
theorem test_showf_static :
    [floatFrame 0xC0300000 1, floatFrame 0xBF000000 1, floatFrame 0xBD4CCCCD 1, floatFrame 0x42C7FAE1 2,
      floatFrame 0x3D4CCCCD 2, floatFrame 0x00000000 38] =
    [some #v[0xFF, 0xBF, 0x24, 0xF8], some #v[0xFF, 0xFF, 0x3F, 0x92], some #v[0xFF, 0xFF, 0xFF, 0xC0],
      some #v[0x90, 0x10, 0x90, 0x90], some #v[0xFF, 0xFF, 0xFF, 0x92], some #v[0xFF, 0xFF, 0xFF, 0xC0]] := by
  decide

/-- V5: the FLOAT_RANGE table. -/
theorem test_showf_fault :
    [(0x7FC00000#32, 0#8), (0x7F800000, 2), (0xFF800000, 0), (0x4F000000, 0), (0x4F32D05E, 0), (0x3F800000, 38),
      (0x3F800000, 39), (0x00000000, 39), (0x4BA3D70A, 2)].all
      (fun x => faultReason (exec (.showf x.1 x.2) ready) == some .floatRange) = true := by
  decide

/-- V11: a buffer of 7 characters keeps 6 and reports the length 7. -/
theorem test_format_overflow :
    writeText (Vector.replicate 7 0xAA#8) (decText 1234567) = #v[0x31, 0x32, 0x33, 0x34, 0x35, 0x36, 0x00] ∧
      overflowEvents 7 (decText 1234567) = [.diag .formatOverflow 7] := by
  decide

/-! ## STEP and SHOWERR (V8, V9) -/

/-- V8: the elapsed time wraps, and the switch wraps from digit 3 to digit 0. -/
theorem test_step_switch :
    (nextState (exec .step (atTime 2 { ready with muxTs := 0xFFFFFFFE, muxIdx := 3, muxPrev := 3 }))).map
        (fun t => (t.muxIdx, t.muxPrev, t.muxTs, t.trace.drop 4)) =
      some (0, 0, 2, [.digitEnable 3 false, .digitEnable 0 true, .shiftOut 0x00]) := by
  decide

/-- P2 and V8: the shift takes the old frame, then window 0 is copied. -/
theorem test_step_scroll :
    (nextState (exec .step (atTime 300 scrolling))).map (fun t => (t.frame, t.scrollIdx, t.scrollTs, t.trace.drop 6)) =
      some (#v[0xFF, 0xFF, 0xFF, 0xF9], 1, 300, [.shiftOut 0x00]) := by
  decide

/-- V9: the snapshot, the pattern and the timestamp, with no event. -/
theorem test_showerr :
    (nextState (exec .showerr (atTime 100 (after (.showi 1234) ready)))).map
        (fun t => (t.frame, t.frameBak, t.bakValid, t.errTs, t.errActive, t.trace.length)) =
      some (#v[0x86, 0xAF, 0xAF, 0xFF], #v[0xF9, 0xA4, 0xB0, 0x99], true, 100, true, 4) := by
  decide

/-- V9: a second SHOWERR saves the pattern itself. -/
theorem test_showerr_again :
    (nextState (exec .showerr (atTime 600 inError))).map (fun t => (t.frameBak, t.errTs)) =
      some (#v[0x86, 0xAF, 0xAF, 0xFF], 600) := by
  decide

/-! ## The ports and the text form (R65, R93) -/

/-- R65: bit 0 first; each bit on the data line, then a pulse of the clock line. -/
theorem test_pins_of_shift :
    (pinActions ready (.shiftOut 0xF9)).take 6 =
      [.dataLine 2 true, .clockPulse 3, .dataLine 2 false, .clockPulse 3, .dataLine 2 false, .clockPulse 3] := by
  decide

/-- P1's line `STEP ; now=3 ; 02`: the second comment does not hide the clock value. -/
theorem test_assemble_second_comment : assemble "STEP        ; now=3        ; 02".toList = some (.step, some 3) := by decide

/-- D26, R65: a pulse on a digit pin that is the clock pin too leaves its line without a level. -/
theorem test_level_after_pulse :
    lineLevel 3 [.digitLine 3 true, .clockPulse 3] = none ∧ lineLevel 3 [.digitLine 4 true] = none := by decide

/-- R93: an operand outside its range, a missing operand and an unknown name are no command. -/
theorem test_assemble_refuses :
    assemble "INIT 2, 3, 4, 5, 6, 256".toList = none ∧ assemble "SHOWI 2147483648".toList = none ∧
      assemble "SHOWF 1.0".toList = none ∧ assemble "HALT".toList = none := by
  decide

/-! ## Witnesses: for every obligation with hypotheses, operands and a state that meet them together, clause by clause -/

/-- The state a step leaves. -/
def stepped (s : State) : State := (nextState (step s)).getD s

theorem exec_after {i : Instr} {s : State} (h : (nextState (exec i s)).isSome = true) : exec i s = .next (after i s) := by
  unfold after
  cases ho : exec i s <;> simp_all [nextState]

theorem step_stepped {s : State} (h : (nextState (step s)).isSome = true) : step s = .next (stepped s) := by
  unfold stepped
  cases ho : step s <;> simp_all [nextState]

/-- The number is as short as the format allows, and longer. -/
theorem witness_DecodeReadsEncodedBits :
    (Instr.showf 0xFFFFFFFF 0xFF).format.bits ≤ 48 ∧ (Instr.init 2 3 4 5 6 7).format.bits ≤ 64 := by decide

theorem witness_CanonicalCommandEncodesBack :
    decode ({ Command.bare 0x11 with a := 5, b := 1 }) = .instr (.showf 5 1) ∧
      ({ Command.bare 0x11 with a := 5, b := 1 }).wf (Instr.showf 5 1).format = true := by decide

/-- The two commands differ on a port that format C does not list. -/
theorem witness_DecoderReadsOnlyTheFormatsPorts :
    decode ({ Command.bare 0x30 with b := 0x45 }) = .instr (.encode 0x45) ∧
      ({ Command.bare 0x30 with b := 0x45, a := 9, p0 := 1 }).op = 0x30 ∧
      ({ Command.bare 0x30 with b := 0x45, a := 9, p0 := 1 }).b = 0x45 ∧
      (Instr.encode 0x45).format.hasA = false ∧ (Instr.encode 0x45).format.hasB = true ∧
      (Instr.encode 0x45).format.hasP = false := by decide

/-- A port the format lists: formats VF and P. -/
theorem witness_DecoderReadsOnlyTheFormatsPorts_listed :
    decode ({ Command.bare 0x11 with a := 5, b := 1, p0 := 7 }) = .instr (.showf 5 1) ∧
      (Instr.showf 5 1).format.hasA = true ∧ (Instr.showf 5 1).format.hasB = true ∧
      decode ({ Command.bare 0x01 with p0 := 2 }) = .instr (.init 2 0 0 0 0 0) ∧
      (Instr.init 2 0 0 0 0 0).format.hasP = true := by decide

theorem witness_UndefinedOpcodesAreTheUnmappedOnes :
    decode (Command.bare 0x14) = .undefined 0x14 ∧ decode (Command.bare 0x31) ≠ .undefined 0x31 := by decide

theorem witness_StepRunsTheDecodedOperation :
    ∃ x rest, (issuing (.showi 7) 9 ready).host = x :: rest ∧ x.overlaps = false ∧ decode x.cmd = .instr (.showi 7) :=
  ⟨_, _, rfl, rfl, rfl⟩

theorem witness_StepRunsTheDecodedOperation_undefined :
    ∃ x rest, ({ ready with host := [{ cmd := Command.bare 0x14, now := 0, overlaps := false }] } : State).host = x :: rest ∧
      x.overlaps = false ∧ decode x.cmd = .undefined 0x14 :=
  ⟨_, _, rfl, rfl, rfl⟩

theorem witness_StepRunsTheStoredWord : decodeTableWord 8 0x10 = some (.showi 0) := by decide

theorem witness_UndefinedOpcodeIsReported :
    ∀ op ∈ [0x00#8, 0x03#8, 0x14#8, 0xFF#8],
      (Command.bare op).op ∉ [0x01#8, 0x02#8, 0x10#8, 0x11#8, 0x12#8, 0x13#8, 0x20#8, 0x30#8, 0x31#8] := by decide

theorem witness_OverlappingCommandFaultsAndIdleBlockRests :
    (∃ x rest, ({ ready with host := [{ cmd := Command.bare 0x02, now := 0, overlaps := true }] } : State).host = x :: rest ∧
      x.overlaps = true) ∧ ready.host = [] :=
  ⟨⟨_, _, rfl, rfl⟩, by decide⟩

/-- An INIT, which emits four events, and a STEP that switches. -/
theorem witness_StepOnlyAppendsToTheTraces :
    (∃ t, step (issuing (.init 2 3 4 5 6 7) 0 State.reset) = .next t) ∧
    ∃ t x rest, step (issuing .step 4 ready) = .next t ∧ (issuing .step 4 ready).host = x :: rest ∧
      decode x.cmd = .instr .step :=
  ⟨⟨_, step_stepped (by decide)⟩, ⟨_, _, _, step_stepped (by decide), rfl, rfl⟩⟩

theorem witness_UnconfiguredBlockFaults : State.reset.configured = false := by decide

theorem witness_OnlyInitWritesThePins :
    ∃ t, step (issuing (.showi 7) 0 ready) = .next t ∧ ready.configured = true ∧
      ∀ x rest, (issuing (.showi 7) 0 ready).host = x :: rest → x.cmd.op ≠ 0x01#8 :=
  ⟨_, step_stepped (by decide), by decide, fun x rest h => by
    have : x = inTurn (.showi 7) 0 := (List.cons.inj h).1.symm
    rw [this]; decide⟩

theorem witness_EncodeReturnsTheRomEntry : (rom hardware 0x45).ok = true ∧ (rom hardware 0x2E).ok = false := by decide

theorem witness_RomFallsBackToTheZeroPattern : (0x00 : CharCode) ∉ whitelist ∧ (0xFF : CharCode) ∉ whitelist := by decide

theorem witness_LettersAreCaseInsensitive : 0x52#8 ∈ [0x41#8, 0x42#8, 0x43#8, 0x44#8, 0x45#8, 0x46#8, 0x52#8] := by decide

theorem witness_ShiftOutFillsTheShiftRegister : 0 < 8 ∧ 7 < 8 := by decide

/-- The opcode clauses of the instruction statements, with other ports in use. -/
theorem witness_opcodes :
    [0x01#8, 0x10#8, 0x11#8, 0x12#8, 0x13#8, 0x20#8, 0x30#8, 0x31#8].all
      (fun op => ({ Command.bare op with a := 5, b := 6, p0 := 7 } : Command).op == op) = true := by decide

theorem witness_GlyphCodeLightsExactlyItsGlyph : hardware.bitsDistinct = true := by decide

theorem witness_AddDPClearsOnlyThePoint : (6 : Nat) ≠ hardware.dpBit.val := by decide

theorem witness_WriteInputBufferCutsAndReports :
    0 < 7 ∧ (decText 123456).length ≤ 7 - 1 ∧ 7 - 1 < (decText 1234567).length := by decide

/-- Each clause, at the longest static text and the shortest and longest scrolling ones. -/
theorem witness_ShowIntegerShowsItsText :
    State.reset.configured = false ∧ ready.configured = true ∧
      (decText (0xFFFFFC19#32).toInt).length ≤ 4 ∧ 4 < (decText (0xFFFFFC18#32).toInt).length ∧
      4 < (decText (0x80000000#32).toInt).length := by decide

theorem witness_ShowHexShowsItsText :
    State.reset.configured = false ∧ ready.configured = true ∧
      (hexText (0xFFFF#32).toNat).length ≤ 4 ∧ 4 < (hexText (0x10000#32).toNat).length := by decide

/-- A fault, a static text and a scrolling one. -/
theorem witness_ShowFloatShowsItsTextWithPoint :
    State.reset.configured = false ∧ ready.configured = true ∧ fscaleDefault 0x7FC00000 0 = none ∧
      fscaleDefault 0x42C7FAE1 2 = some 9999 ∧ (decText (9999#32).toInt).length ≤ 4 ∧
      fscaleDefault 0x41480000 3 = some 12500 ∧ 4 < (decText (12500#32).toInt).length := by decide

theorem witness_ReservedSelectorIsReported : State.reset.configured = false ∧ ready.configured = true := by decide

theorem witness_ScrollWindowsSlideOverThePaddedCodes :
    0 < (codesOf (decText 1)).length ∧ (codesOf (decText (-2147483648))).length ≤ 12 ∧
      14 < (codesOf (decText (-2147483648))).length + 4 := by decide

/-- Both formats of the SHOW operations. -/
theorem witness_ShowIgnoresTheOverlay :
    (∃ t, (Instr.showi 7).format = .V ∧ exec (.showi 7) inError = .next t) ∧
    ∃ t, (Instr.showf 0x41480000 3).format = .VF ∧ exec (.showf 0x41480000 3) inError = .next t :=
  ⟨⟨_, rfl, exec_after (by decide)⟩, ⟨_, rfl, exec_after (by decide)⟩⟩

theorem witness_FscaleFaultsOnNonFiniteOperands :
    (0x7FC00000#32).extractLsb 30 23 = 0xFF#8 ∧ 39 ≤ (39#8).toNat ∧ (38#8).toNat ≤ 38 ∧
      (0x80000000#32).extractLsb 30 0 = 0#31 := by decide

/-- The product of the largest binary32 value and 10 overflows; 2^31 with no place is no `s32` (V5), and -2^31 is one. -/
theorem witness_FscaleFaultsOnNonFiniteOperands_product :
    (∃ x scale, floatMagnitude 0x7F7FFFFF = some x ∧ rne32 (10 ^ (1#8).toNat) 1 = some scale ∧ mulRne32 scale x = none) ∧
    ∃ x scale q, floatMagnitude 0x4F000000 = some x ∧ rne32 (10 ^ (0#8).toNat) 1 = some scale ∧
      mulRne32 scale x = some q ∧ floatSign 0x4F000000 = false ∧ floatSign 0xCF000000 = true ∧
      floatMagnitude 0xCF000000 = some x ∧ ⌊(q.mant : ℚ) * 2 ^ q.exp⌋ = 2 ^ 31 :=
  ⟨⟨{ mant := 0xFFFFFF, exp := 104 }, { mant := 0xA00000, exp := -20 }, by decide, by decide, by decide⟩,
    ⟨{ mant := 0x800000, exp := 8 }, { mant := 0x800000, exp := -23 }, { mant := 0x800000, exp := 8 },
      by decide, by decide, by decide, by decide, by decide, by decide, by norm_num⟩⟩

/-- A quotient between two values, and an overflow. -/
theorem witness_RoundingIsToTheNearestValue : 0 < 3 ∧ (rne32 1 3).isSome = true ∧ rne32 (2 ^ 128) 1 = none := by decide

/-- `2^24 + 3` lies half way between two values, and the result `2^24 + 4` is the even multiple of 2. -/
theorem witness_RoundingIsToTheNearestValue_tie :
    rne32 (2 ^ 24 + 3) 1 = some { mant := 2 ^ 23 + 2, exp := 1 } ∧ 2 ^ 23 + 1 ≠ 2 ^ 23 + 2 ∧
      abs (((2 ^ 23 + 1 : ℕ) : ℚ) * 2 ^ (1 : ℤ) - ((2 ^ 24 + 3 : ℕ) : ℚ) / (1 : ℕ)) =
        abs (((2 ^ 23 + 2 : ℕ) : ℚ) * 2 ^ (1 : ℤ) - ((2 ^ 24 + 3 : ℕ) : ℚ) / (1 : ℕ)) :=
  ⟨by decide, by decide, by norm_num⟩

theorem witness_StepSwitchesTheDigit :
    ready.configured = true ∧ ready.errActive = false ∧ ready.scrollActive = false := by decide

/-- The last STEP of the overlay and the first after it (E8). -/
theorem witness_StepExpiresTheOverlay :
    (atTime 1010 inError).configured = true ∧ (atTime 1010 inError).errActive = true ∧
      1000#32 ≤ (atTime 1010 inError).clock - (atTime 1010 inError).errTs ∧
      (atTime 1009 inError).configured = true ∧ (atTime 1009 inError).errActive = true ∧
      ¬ 1000#32 ≤ (atTime 1009 inError).clock - (atTime 1009 inError).errTs := by decide

/-- The last STEP before an advance and the first that advances (V8). -/
theorem witness_StepAdvancesTheScroll :
    (atTime 300 scrolling).configured = true ∧ (atTime 300 scrolling).errActive = false ∧
      (atTime 300 scrolling).scrollActive = true ∧
      300#32 ≤ (atTime 300 scrolling).clock - (atTime 300 scrolling).scrollTs ∧
      (atTime 299 scrolling).configured = true ∧ (atTime 299 scrolling).errActive = false ∧
      (atTime 299 scrolling).scrollActive = true ∧
      ¬ 300#32 ≤ (atTime 299 scrolling).clock - (atTime 299 scrolling).scrollTs := by decide

theorem witness_StepForEveryInterval : scrolling.configured = true := by decide

/-- Spaced exactly at the interval, and more. -/
theorem witness_ScrollCyclesThroughItsWindows :
    scrolling.configured = true ∧ scrolling.scrollActive = true ∧ scrolling.errActive = false ∧
      scrolling.scrollIdx.toNat < scrolling.scrollFrames.toNat ∧
      spacedBy 300 scrolling.scrollTs [300, 600, 1000] ∧ ([300, 600, 1000] : List Word) ≠ [] :=
  ⟨by decide, by decide, by decide, by decide, ⟨by decide, by decide, by decide, trivial⟩, by decide⟩

/-- The first STEP that switches, and one exactly at the interval. -/
theorem witness_DigitsAreVisitedInOrder : ready.configured = true ∧ spacedBy 4 ready.muxTs [100, 104] :=
  ⟨by decide, by decide, by decide, trivial⟩

theorem witness_ShowErrorBeginsTheOverlay : State.reset.configured = false ∧ ready.configured = true := by decide

/-- P4. -/
theorem witness_SecondShowErrorLosesTheContent : ready.configured = true ∧ 1000#32 ≤ 1600#32 - 600#32 := by decide

/-- P3 and E8. -/
theorem witness_OverlayRestoresTheFrameAfterItsDuration :
    ready.configured = true ∧ (∀ now ∈ [14#32, 500#32, 1009#32], ¬ 1000#32 ≤ now - 10#32) ∧ 1000#32 ≤ 1010#32 - 10#32 :=
  ⟨by decide, by simp, by decide⟩

theorem witness_OnlyShowErrorStartsAnOverlay :
    ∃ t, step (issuing .showerr 10 ready) = .next t ∧ (issuing .showerr 10 ready).errActive = false ∧ t.errActive = true :=
  ⟨_, step_stepped (by decide), by decide, by decide⟩

theorem witness_OnlyStepAndShowErrorReadTheClock :
    ∃ t, Instr.showi 7 ≠ .step ∧ Instr.showi 7 ≠ .showerr ∧ exec (.showi 7) ready = .next t :=
  ⟨_, by decide, by decide, exec_after (by decide)⟩

theorem witness_RepeatedOperationKeepsTheState :
    ∃ t, Instr.showi 12345 ≠ .step ∧ Instr.showi 12345 ≠ .showerr ∧ exec (.showi 12345) ready = .next t :=
  ⟨_, by decide, by decide, exec_after (by decide)⟩

/-- A scrolling state, where the invariants ask the most, and a step that copies its first window. -/
theorem witness_EveryStepKeepsTheInvariants :
    Consistent (issuing .step 300 scrolling) ∧ scrolling.configured = true ∧ scrolling.scrollActive = true ∧
      ∃ t, step (issuing .step 300 scrolling) = .next t :=
  ⟨by decide, by decide, by decide, _, step_stepped (by decide)⟩

/-- The block after one switch, with digit 1 enabled, and a step that switches again. -/
theorem witness_EveryStepKeepsAtMostOneDigitEnabled :
    AtMostOneEnabled (issuing .step 8 (after .step (atTime 4 ready))) ∧
      digitEnabled (issuing .step 8 (after .step (atTime 4 ready))).trace 1 = true ∧
      ∃ t, step (issuing .step 8 (after .step (atTime 4 ready))) = .next t :=
  ⟨by decide, by decide, _, step_stepped (by decide)⟩

/-- The first switch after INIT. -/
theorem witness_ExactlyOneDigitEnabledAfterTheFirstSwitch_switch :
    ∃ t x rest, step (issuing .step 4 ready) = .next t ∧ (issuing .step 4 ready).host = x :: rest ∧
      AtMostOneEnabled (issuing .step 4 ready) ∧ decode x.cmd = .instr .step ∧
      4#32 ≤ x.now - (issuing .step 4 ready).muxTs :=
  ⟨_, _, _, step_stepped (by decide), rfl, by decide, rfl, by decide⟩

/-- A SHOWI after it. -/
theorem witness_ExactlyOneDigitEnabledAfterTheFirstSwitch_keep :
    ∃ t x rest, step (issuing (.showi 7) 5 (after .step (atTime 4 ready))) = .next t ∧
      (issuing (.showi 7) 5 (after .step (atTime 4 ready))).host = x :: rest ∧
      ExactlyOneEnabled (issuing (.showi 7) 5 (after .step (atTime 4 ready))) ∧
      MuxSettled (issuing (.showi 7) 5 (after .step (atTime 4 ready))) ∧ x.cmd.op ≠ 0x01#8 :=
  ⟨_, _, _, step_stepped (by decide), rfl, by decide, by decide, by decide⟩

/-! FSCALE's property of R147: operands whose exact product lies far enough from every integer. -/

/-- The distance of an odd half from every integer. -/
theorem half_far (n : ℤ) (h : n % 2 = 1) (k : ℤ) : (1 : ℚ) / 2 ≤ abs ((n : ℚ) / 2 - k) := by
  have h1 : (1 : ℚ) ≤ abs ((n - 2 * k : ℤ) : ℚ) := by
    rw [← Int.cast_abs]
    exact_mod_cast Int.one_le_abs (by omega)
  have h2 : (n : ℚ) / 2 - k = ((n - 2 * k : ℤ) : ℚ) / 2 := by push_cast; ring
  rw [h2, abs_div, abs_of_pos (show (0 : ℚ) < 2 by norm_num)]
  linarith

/-- The binade of 27.5. -/
theorem log_of_example : Int.log 2 (55 / 2 : ℚ) = 4 :=
  le_antisymm
    (Int.lt_add_one_iff.1 ((Int.lt_zpow_iff_log_lt (by norm_num) (by norm_num)).1 (by norm_num)))
    ((Int.zpow_le_iff_le_log (by norm_num) (by norm_num)).1 (by norm_num))

/-- V5: -2.75 with one decimal place, whose exact product is -27.5. -/
theorem witness_FscaleTruncatesTheExactProduct :
    ∃ m, (1#8).toNat ≤ 10 ∧ floatMagnitude 0xC0300000 = some m ∧ floatSign 0xC0300000 = true ∧
      ((m.mant : ℚ) * 2 ^ m.exp * 10 ^ (1#8).toNat = 55 / 2) ∧ (-2 ^ 31 : ℚ) ≤ -(55 / 2) ∧ -(55 / 2 : ℚ) ≤ 2 ^ 31 - 1 ∧
      ∀ k : ℤ, (2 : ℚ) ^ max (Int.log 2 (55 / 2 : ℚ) - 23) (-149) < abs (-(55 / 2) - (k : ℚ)) := by
  refine ⟨{ mant := 0xB00000, exp := -22 }, by decide, by decide, by decide, ?_, by norm_num, by norm_num, fun k => ?_⟩
  · norm_num
  · have h := half_far (-55) (by decide) k
    rw [log_of_example]
    refine lt_of_lt_of_le (by norm_num) (h.trans_eq ?_)
    push_cast
    congr 1
    ring

end Sys2Proof.Tests
end

section
/-! Proofs about the state: what every step keeps (10_state.md sections 2, 7 and 8). -/

namespace Sys2Proof.Machine

open Sys2Proof Sys2Proof.Safety

/-! The two terminators, after the writes that put them there -/

theorem getElem?_memWrite_terminator {α : Type} {n : Nat} (v : Vector α n) (l : List α) (x : α) (h : l.length < n) :
    (memWrite v 0 (l ++ [x]))[l.length]? = some x := by
  rw [Vector.getElem?_eq_getElem h, getElem_memWrite_inside v 0 _ _ h (by omega) (by simp)]
  simp

/-- R25: SymbolBuffer holds some codes with the terminator behind them, and `sym_len` counts the codes. -/
theorem symbolsTerminated_of_memWrite {s : State} {v : Vector Seg bufCap} {codes : List Seg} (hc : codes.length ≤ bufCap - 1)
    (hb : s.symBuf = memWrite v 0 (codes ++ [0x00#8])) (hl : s.symLen = BitVec.ofNat 8 codes.length) :
    SymbolsTerminated s := by
  have hB : bufCap = 20 := rfl
  have hn : s.symLen.toNat = codes.length := by rw [hl, BitVec.toNat_ofNat]; omega
  rw [SymbolsTerminated, hn, hb]
  exact ⟨hc, getElem?_memWrite_terminator v codes _ (by omega)⟩

theorem renderedLength_of_memWrite {s : State} {buf : Vector CharCode maxIn} {text : List CharCode}
    (hz : ∀ c ∈ text, c ≠ 0x00#8) (hl : text.length ≤ maxIn - 1) (hb : s.inBuf = memWrite buf 0 (text ++ [0x00#8])) :
    renderedLength s = text.length := by
  have hm : maxIn = 13 := rfl
  rw [renderedLength, hb, textOf_memWrite buf hz (by omega)]

/-! The invariants of R36, operation by operation -/

/-- R230: INIT establishes the invariants in every state. -/
theorem consistent_initWith (p : Params) (p0 p1 p2 p3 p4 p5 : Byte) (s : State) :
    Consistent (initWith p p0 p1 p2 p3 p4 p5 s) := by
  intro _
  have hr : renderedLength (initWith p p0 p1 p2 p3 p4 p5 s) = 0 :=
    renderedLength_of_memWrite (text := []) (by simp) (by simp) rfl
  have hidle : (initWith p p0 p1 p2 p3 p4 p5 s).scrollActive = false := rfl
  refine ⟨fun h => by simp [hidle] at h, rfl, by simp [TextTerminated, hr], ?_, rfl⟩
  exact symbolsTerminated_of_memWrite (codes := []) (by simp) rfl rfl

/-- R183: a switch leaves the two multiplex indexes equal, and touches nothing else the invariants speak of. -/
theorem consistent_muxSwitch (p : Params) (now : Word) {s : State} (hs : Consistent s) :
    Consistent (muxSwitch p now s) := by
  cases h : due now s.muxTs p.refreshMs with
  | true =>
    rw [muxSwitch_of_due p now h]
    intro hc
    obtain ⟨hscroll, hbak, htext, hsym, _⟩ := hs hc
    exact ⟨hscroll, hbak, htext, hsym, rfl⟩
  | false => rwa [muxSwitch_of_not_due p now h]

/-- R185: the restore clears both overlay flags. -/
theorem consistent_errorExpiry (p : Params) (now : Word) {s : State} (hs : Consistent s) :
    Consistent (errorExpiry p now s) := by
  cases h : due now s.errTs p.errorMs with
  | true =>
    rw [errorExpiry_of_due p now h]
    intro hc
    obtain ⟨hscroll, _, htext, hsym, hmux⟩ := hs hc
    exact ⟨hscroll, rfl, htext, hsym, hmux⟩
  | false => rwa [errorExpiry_of_not_due p now h]

/-- R186: the index wraps before it reaches the frame count; below the count the increment cannot overflow a byte. -/
theorem nextScrollIdx_lt {idx frames : Byte} (h : idx.toNat < frames.toNat) :
    (nextScrollIdx idx frames).toNat < frames.toNat := by
  unfold nextScrollIdx
  split
  · exact Nat.zero_lt_of_lt h
  · rename_i hne
    bv_omega

/-- R186: an advance keeps the scroll index below the frame count. -/
theorem consistent_scrollAdvance (p : Params) (now : Word) {s : State} (hs : Consistent s) :
    Consistent (scrollAdvance p now s) := by
  cases h : due now s.scrollTs p.scrollMs with
  | true =>
    rw [scrollAdvance_of_due p now h]
    intro hc
    obtain ⟨hscroll, hrest⟩ := hs hc
    refine ⟨fun ha => ?_, hrest⟩
    obtain ⟨hframes, hlen, hidx⟩ := hscroll ha
    exact ⟨hframes, hlen, nextScrollIdx_lt hidx⟩
  | false => rwa [scrollAdvance_of_not_due p now h]

theorem consistent_overlayOrScroll (p : Params) (now : Word) {s : State} (hs : Consistent s) :
    Consistent (overlayOrScroll p now s) := by
  cases he : s.errActive with
  | true => rw [overlayOrScroll_of_error p now he]; exact consistent_errorExpiry p now hs
  | false =>
    cases ha : s.scrollActive with
    | true => rw [overlayOrScroll_of_scroll p now he ha]; exact consistent_scrollAdvance p now hs
    | false => rwa [overlayOrScroll_of_neither p now he ha]

/-- R210: SHOWERR sets both overlay flags. -/
theorem consistent_beginOverlay (p : Params) (now : Word) {s : State} (hs : Consistent s) :
    Consistent (beginOverlay p now s) := by
  intro hc
  obtain ⟨hscroll, _, htext, hsym, hmux⟩ := hs hc
  exact ⟨hscroll, rfl, htext, hsym, hmux⟩

section ShowText

variable (p : Params) {text : List CharCode} (hp : Printable text) (hl : text.length ≤ maxIn - 1) (places : Option Nat)
  (s : State)

include hp hl

/-- R142: the shown text is the one InputBuffer holds afterwards. -/
theorem renderedLength_showText : renderedLength (showText p text places s) = text.length := by
  refine renderedLength_of_memWrite (buf := s.inBuf) hp.ne_zero hl ?_
  by_cases hn : nDigits < text.length
  · rw [showText_scroll p hp hl hn]
  · rw [showText_static p hp (Nat.not_lt.1 hn)]

/-- R149, R159: the codes of a static text, or the padded codes of a scrolling one, end in the terminator. -/
theorem symbolsTerminated_showText : SymbolsTerminated (showText p text places s) := by
  have hm : maxIn = 13 := rfl
  have hN : nDigits = 4 := rfl
  have hB : bufCap = 20 := rfl
  by_cases hn : nDigits < text.length
  · rw [showText_scroll p hp hl hn]
    exact symbolsTerminated_of_memWrite (codes := scrollSequence p (pointCodes p text places))
      (by simp; omega) rfl (by simp)
  · rw [showText_static p hp (Nat.not_lt.1 hn)]
    exact symbolsTerminated_of_memWrite (codes := pointCodes p text places) (by simp; omega) rfl (by simp)

/-- R155, R159: a text of `L` characters that scrolls has `L + 7` codes and `L + 4` frames, and starts at its first window. -/
theorem scrollConsistent_showText : ScrollConsistent (showText p text places s) := by
  intro ha
  have hm : maxIn = 13 := rfl
  have hN : nDigits = 4 := rfl
  rw [renderedLength_showText p hp hl]
  by_cases hn : nDigits < text.length
  · rw [showText_scroll p hp hl hn]
    simp only [BitVec.ofNat_eq_ofNat, BitVec.toNat_ofNat]
    omega
  · rw [showText_static p hp (Nat.not_lt.1 hn)] at ha
    cases ha

/-- R140: showing a text keeps the invariants; the overlay flags and the multiplex indexes are not written (R165). -/
theorem consistent_showText (hs : Consistent s) : Consistent (showText p text places s) := by
  intro hc
  have hw := showText_writes p hp hl places s
  obtain ⟨_, hbak, _, _, hmux⟩ := hs (by rwa [hw] at hc)
  refine ⟨scrollConsistent_showText p hp hl places s, by rwa [hw], ?_, symbolsTerminated_showText p hp hl places s, by rwa [hw]⟩
  exact (renderedLength_showText p hp hl places s).trans_le hl

end ShowText

/-- R36: every operation that answers a next state keeps the invariants. -/
theorem consistent_exec {i : Instr} {s t : State} (hs : Consistent s) (h : exec i s = .next t) : Consistent t := by
  cases i with
  | init p0 p1 p2 p3 p4 p5 => rw [exec_init_next h]; exact consistent_initWith _ _ _ _ _ _ _ _
  | step =>
    obtain ⟨_, rfl⟩ := exec_step_next h
    exact consistent_overlayOrScroll _ _ (consistent_muxSwitch _ _ hs)
  | showi a =>
    obtain ⟨_, rfl⟩ := exec_showi_next h
    obtain ⟨hp, hl, _⟩ := showText_operand_fits a
    exact consistent_showText _ hp hl _ _ hs
  | showf a b =>
    obtain ⟨_, v, _, rfl⟩ := exec_showf_next h
    obtain ⟨hp, hl, _⟩ := showText_operand_fits v
    exact consistent_showText _ hp hl _ _ hs
  | showh a =>
    obtain ⟨_, rfl⟩ := exec_showh_next h
    obtain ⟨_, _, hp, hl⟩ := showText_operand_fits a
    exact consistent_showText _ hp hl _ _ hs
  | showrsv a b => obtain ⟨_, rfl⟩ := exec_showrsv_next h; exact hs
  | showerr => obtain ⟨_, rfl⟩ := exec_showerr_next h; exact consistent_beginOverlay _ _ hs
  | encode b => rw [exec_encode_next h, encodeWith_eq]; exact hs
  | adddp b => rw [exec_adddp_next h, adddpWith_eq]; exact hs

/-- Settles O51: an idle step and a report leave what the invariants speak of alone, and every operation keeps them. -/
theorem everyStepKeepsTheInvariants : Obligations.EveryStepKeepsTheInvariants := by
  intro s t hs h
  obtain ⟨_, rfl⟩ | ⟨x, rest, i, _, _, _, hi⟩ | ⟨x, rest, op, _, _, _, hu⟩ := step_cases h
  · exact hs
  · exact consistent_exec (s := issue x.now rest s) hs hi
  · rw [execUndefined_eq] at hu
    cases hu
    exact hs

/-! The pin identifiers and the configured flag -/

/-- R88, R92: the operation the decoder reads has the opcode that stands on the ports. -/
theorem opcode_of_decode {c : Command} {i : Instr} (h : decode c = .instr i) : i.opcode = c.op := by
  unfold decode at h
  split at h
  all_goals cases h
  all_goals exact Eq.symm ‹_›

theorem initWith_configured (p : Params) (p0 p1 p2 p3 p4 p5 : Byte) (s : State) :
    (initWith p p0 p1 p2 p3 p4 p5 s).configured = true := rfl

/-- R22, R23: every operation but INIT leaves the pin identifiers and `configured` as they were. -/
theorem exec_pins {i : Instr} {s t : State} (hi : i.opcode ≠ 0x01#8) (h : exec i s = .next t) :
    t.pinData = s.pinData ∧ t.pinClk = s.pinClk ∧ t.pinDig = s.pinDig ∧ t.configured = s.configured := by
  cases i with
  | init p0 p1 p2 p3 p4 p5 => exact absurd rfl hi
  | step =>
    obtain ⟨_, rfl⟩ := exec_step_next h
    rw [overlayOrScroll_writes, muxSwitch_writes]
    exact ⟨rfl, rfl, rfl, rfl⟩
  | showi a =>
    obtain ⟨_, rfl⟩ := exec_showi_next h
    obtain ⟨hp, hl, _⟩ := showText_operand_fits a
    rw [showText_writes _ hp hl]
    exact ⟨rfl, rfl, rfl, rfl⟩
  | showf a b =>
    obtain ⟨_, v, _, rfl⟩ := exec_showf_next h
    obtain ⟨hp, hl, _⟩ := showText_operand_fits v
    rw [showText_writes _ hp hl]
    exact ⟨rfl, rfl, rfl, rfl⟩
  | showh a =>
    obtain ⟨_, rfl⟩ := exec_showh_next h
    obtain ⟨_, _, hp, hl⟩ := showText_operand_fits a
    rw [showText_writes _ hp hl]
    exact ⟨rfl, rfl, rfl, rfl⟩
  | showrsv a b => obtain ⟨_, rfl⟩ := exec_showrsv_next h; exact ⟨rfl, rfl, rfl, rfl⟩
  | showerr => obtain ⟨_, rfl⟩ := exec_showerr_next h; exact ⟨rfl, rfl, rfl, rfl⟩
  | encode b => rw [exec_encode_next h, encodeWith_eq]; exact ⟨rfl, rfl, rfl, rfl⟩
  | adddp b => rw [exec_adddp_next h]; exact ⟨rfl, rfl, rfl, rfl⟩

/-- R23: no operation clears `configured`; INIT sets it. -/
theorem exec_configured {i : Instr} {s t : State} (h : exec i s = .next t) (hs : s.configured = true) :
    t.configured = true := by
  by_cases hi : i.opcode = 0x01#8
  · cases i with
    | init p0 p1 p2 p3 p4 p5 => rw [exec_init_next h]; exact initWith_configured _ _ _ _ _ _ _ _
    | _ => simp [Instr.opcode] at hi
  · obtain ⟨_, _, _, hc⟩ := exec_pins hi h
    exact hc.trans hs

/-- Settles O15: a step that runs an operation other than INIT, reports an undefined opcode or is idle writes none of them. -/
theorem onlyInitWritesThePins : Obligations.OnlyInitWritesThePins := by
  intro s t h
  obtain ⟨_, rfl⟩ | ⟨x, rest, i, hx, _, hd, hi⟩ | ⟨x, rest, op, _, _, _, hu⟩ := step_cases h
  · exact ⟨id, fun _ => ⟨rfl, rfl, rfl, rfl⟩⟩
  · refine ⟨exec_configured (s := issue x.now rest s) hi, fun hne => ?_⟩
    have hop : i.opcode ≠ 0x01#8 := opcode_of_decode hd ▸ hne x rest hx
    exact exec_pins (s := issue x.now rest s) hop hi
  · rw [execUndefined_eq] at hu
    cases hu
    exact ⟨id, fun _ => ⟨rfl, rfl, rfl, rfl⟩⟩

/-! Power-on -/

/-- Settles O12: R231 and R271 are the values `State.reset` gives these fields. -/
theorem powerOnIsUnconfiguredAndSilent : Obligations.PowerOnIsUnconfiguredAndSilent :=
  ⟨rfl, rfl, rfl, rfl⟩

/-- R64: a digit that no event has enabled is not enabled. -/
theorem digitEnabled_nil (i : Fin nDigits) : digitEnabled [] i = false := rfl

/-- Settles O50: before INIT the first invariant asks nothing, and the empty trace has enabled no digit. -/
theorem powerOnIsSafe : Obligations.PowerOnIsSafe := by
  obtain ⟨hc, ht, _⟩ := powerOnIsUnconfiguredAndSilent
  refine ⟨fun h => absurd h (by simp [hc]), fun i hi => ?_⟩
  rw [ht, digitEnabled_nil] at hi
  cases hi

end Sys2Proof.Machine
end

section
/-! The ports, the step and the rules of the whole machine: family 20_memory.md. -/

namespace Sys2Proof.Machine

open Sys2Proof Sys2Proof.Safety

/-! What an operation appends to the output traces -/

/-- `t` has the traces of `s` with at most `n` more events, and any number of pin actions, at their ends (R63). -/
def Appends (n : Nat) (s t : State) : Prop :=
  (∃ es, t.trace = s.trace ++ es ∧ es.length ≤ n) ∧ ∃ acts, t.pinTrace = s.pinTrace ++ acts

/-- A change that leaves the traces alone appends nothing. -/
theorem Appends.of_eq {n : Nat} {s t : State} (ht : t.trace = s.trace) (hp : t.pinTrace = s.pinTrace) : Appends n s t :=
  ⟨⟨[], by simp [ht], Nat.zero_le n⟩, [], by simp [hp]⟩

/-- The most events an operation emits (R116, R164, R188, R230). -/
def eventBound : Instr → Nat
  | .init .. => 4
  | .step => 3
  | .showrsv .. | .encode _ => 1
  | .showi _ | .showf .. | .showh _ | .showerr | .adddp _ => 0

theorem eventBound_le (i : Instr) : eventBound i ≤ 4 := by
  cases i <;> simp [eventBound]

/-- R188: a switch emits three events. -/
theorem appends_muxSwitch (p : Params) (now : Word) (s : State) : Appends 3 s (muxSwitch p now s) := by
  cases h : due now s.muxTs p.refreshMs with
  | true =>
    rw [muxSwitch_of_due p now h]
    exact ⟨⟨switchEvents s, rfl, Nat.le_refl 3⟩, _, rfl⟩
  | false =>
    rw [muxSwitch_of_not_due p now h]
    exact .of_eq rfl rfl

/-- R161 to R163: showing a text that fits emits nothing. -/
theorem appends_showText (p : Params) {text : List CharCode} (hp : Printable text) (hl : text.length ≤ maxIn - 1)
    (places : Option Nat) (s : State) : Appends 0 s (showText p text places s) := by
  rw [showText_writes p hp hl]
  exact .of_eq rfl rfl

/-- R63: every operation that answers a next state appends to the traces, by no more events than its bound. -/
theorem exec_appends {i : Instr} {s t : State} (h : exec i s = .next t) : Appends (eventBound i) s t := by
  cases i with
  | init p0 p1 p2 p3 p4 p5 =>
    rw [exec_init_next h, initWith_eq]
    exact ⟨⟨_, rfl, Nat.le_refl 4⟩, _, rfl⟩
  | step =>
    obtain ⟨_, rfl⟩ := exec_step_next h
    rw [overlayOrScroll_writes]
    exact appends_muxSwitch _ _ s
  | showi a =>
    obtain ⟨_, rfl⟩ := exec_showi_next h
    obtain ⟨hp, hl, _⟩ := showText_operand_fits a
    exact appends_showText _ hp hl _ s
  | showf a b =>
    obtain ⟨_, v, _, rfl⟩ := exec_showf_next h
    obtain ⟨hp, hl, _⟩ := showText_operand_fits v
    exact appends_showText _ hp hl _ s
  | showh a =>
    obtain ⟨_, rfl⟩ := exec_showh_next h
    obtain ⟨_, _, hp, hl⟩ := showText_operand_fits a
    exact appends_showText _ hp hl _ s
  | showrsv a b =>
    obtain ⟨_, rfl⟩ := exec_showrsv_next h
    exact ⟨⟨_, rfl, Nat.le_refl 1⟩, [], by simp⟩
  | showerr =>
    obtain ⟨_, rfl⟩ := exec_showerr_next h
    exact .of_eq rfl rfl
  | encode b =>
    rw [exec_encode_next h, encodeWith_eq]
    exact ⟨⟨_, rfl, by split <;> simp [eventBound]⟩, [], by simp⟩
  | adddp b =>
    rw [exec_adddp_next h]
    exact .of_eq rfl rfl

/-- Settles O11: an idle step appends nothing, an operation at most its bound, and an undefined opcode its one report. -/
theorem stepOnlyAppendsToTheTraces : Obligations.StepOnlyAppendsToTheTraces := by
  intro s t h
  obtain ⟨_, rfl⟩ | ⟨x, rest, i, hx, _, hd, hi⟩ | ⟨x, rest, op, _, _, _, hu⟩ := step_cases h
  · exact ⟨⟨[], by simp⟩, [], by simp⟩
  · obtain ⟨⟨es, hes, hlen⟩, hacts⟩ := exec_appends hi
    refine ⟨⟨es, hes, hlen.trans (eventBound_le i), fun y rest' hy hstep => ?_⟩, hacts⟩
    obtain ⟨rfl, rfl⟩ := List.cons.inj (hx.symm.trans hy)
    obtain rfl : i = .step := Decoded.instr.inj (hd.symm.trans hstep)
    exact hlen
  · rw [execUndefined_eq] at hu
    cases hu
    exact ⟨⟨_, rfl, by simp⟩, [], by simp⟩

/-! Operations that do not depend on the clock, and their repetition -/

/-- The operation shows one printable text that fits, the same in every configured state: SHOWI, SHOWH, and SHOWF where
FSCALE has a value (R161 to R163). -/
def ShowsText (i : Instr) (text : List CharCode) (places : Option Nat) : Prop :=
  (Printable text ∧ text.length ≤ maxIn - 1) ∧
    ∀ s : State, s.configured = true → exec i s = .next (showText hardware text places s)

theorem showsText_showi (a : Word) : ShowsText (.showi a) (decText a.toInt) none := by
  obtain ⟨hp, hl, _⟩ := showText_operand_fits a
  exact ⟨⟨hp, hl⟩, fun _ hc => execShowi_eq hc a⟩

theorem showsText_showh (a : Word) : ShowsText (.showh a) (hexText a.toNat) none := by
  obtain ⟨_, _, hp, hl⟩ := showText_operand_fits a
  exact ⟨⟨hp, hl⟩, fun _ hc => execShowh_eq hc a⟩

theorem showsText_showf {a v : Word} {b : Byte} (hf : fscaleDefault a b = some v) :
    ShowsText (.showf a b) (decText v.toInt) (some b.toNat) := by
  obtain ⟨hp, hl, _⟩ := showText_operand_fits v
  exact ⟨⟨hp, hl⟩, fun _ hc => execShowf_eq hc hf⟩

section ShowText

variable (p : Params) {text : List CharCode} (hp : Printable text) (hl : text.length ≤ maxIn - 1) (places : Option Nat)
  (s : State)

include hp hl

/-- R140: showing a text does not read the clock. -/
theorem showText_clock (now : Word) :
    showText p text places { s with clock := now } = { showText p text places s with clock := now } := by
  by_cases hn : nDigits < text.length
  · simp only [showText_scroll p hp hl hn]
  · simp only [showText_static p hp (Nat.not_lt.1 hn)]

/-- R69: showing a text again writes over every entry it wrote before, with the same value. -/
theorem showText_showText : showText p text places (showText p text places s) = showText p text places s := by
  by_cases hn : nDigits < text.length
  · simp only [showText_scroll p hp hl hn, memWrite_memWrite _ _ _ (Nat.le_refl _)]
  · simp only [showText_static p hp (Nat.not_lt.1 hn), memWrite_memWrite _ _ _ (Nat.le_refl _)]

end ShowText

/-- R77: the operation leaves the clock port alone, and from a state that differs only there it answers the same. -/
def ClockFree (i : Instr) (s t : State) : Prop :=
  t.clock = s.clock ∧ ∀ now : Word, exec i { s with clock := now } = .next { t with clock := now }

theorem ShowsText.clockFree {i : Instr} {text : List CharCode} {places : Option Nat} (h : ShowsText i text places)
    {s : State} (hc : s.configured = true) : ClockFree i s (showText hardware text places s) := by
  obtain ⟨⟨hp, hl⟩, hexec⟩ := h
  refine ⟨by rw [showText_writes _ hp hl], fun now => ?_⟩
  rw [hexec { s with clock := now } hc, showText_clock _ hp hl]

/-- R230: INIT does not read the clock. -/
theorem initWith_clock (p : Params) (p0 p1 p2 p3 p4 p5 : Byte) (s : State) (now : Word) :
    initWith p p0 p1 p2 p3 p4 p5 { s with clock := now } = { initWith p p0 p1 p2 p3 p4 p5 s with clock := now } := by
  simp only [initWith_eq]

/-- R116: ENCODE does not read the clock. -/
theorem encodeWith_clock (p : Params) (b : Byte) (s : State) (now : Word) :
    encodeWith p b { s with clock := now } = { encodeWith p b s with clock := now } := by
  simp only [encodeWith_eq]

/-- Settles O48: the results of the seven operations hold no value of the clock port but the port itself. -/
theorem onlyStepAndShowErrorReadTheClock : Obligations.OnlyStepAndShowErrorReadTheClock := by
  intro i s t now hstep hshowerr h
  suffices hfree : ClockFree i s t from ⟨hfree.1, hfree.2 now⟩
  cases i with
  | init p0 p1 p2 p3 p4 p5 =>
    rw [exec_init_next h]
    exact ⟨by rw [initWith_eq], fun now => congrArg Host.Outcome.next (initWith_clock _ _ _ _ _ _ _ s now)⟩
  | step => exact absurd rfl hstep
  | showi a => obtain ⟨hc, rfl⟩ := exec_showi_next h; exact (showsText_showi a).clockFree hc
  | showf a b => obtain ⟨hc, v, hf, rfl⟩ := exec_showf_next h; exact (showsText_showf hf).clockFree hc
  | showh a => obtain ⟨hc, rfl⟩ := exec_showh_next h; exact (showsText_showh a).clockFree hc
  | showrsv a b =>
    obtain ⟨hc, rfl⟩ := exec_showrsv_next h
    exact ⟨rfl, fun now => execShowrsv_eq (s := { s with clock := now }) hc a b⟩
  | showerr => exact absurd rfl hshowerr
  | encode b =>
    rw [exec_encode_next h]
    exact ⟨by rw [encodeWith_eq], fun now => congrArg Host.Outcome.next (encodeWith_clock _ b s now)⟩
  | adddp b => rw [exec_adddp_next h]; exact ⟨rfl, fun _ => rfl⟩

/-- R230: a second INIT leaves in every element what the first one left. -/
theorem sameBlockState_initWith (p : Params) (p0 p1 p2 p3 p4 p5 : Byte) (s : State) :
    SameBlockState (initWith p p0 p1 p2 p3 p4 p5 s)
      (initWith p p0 p1 p2 p3 p4 p5 (initWith p p0 p1 p2 p3 p4 p5 s)) := by
  simp only [SameBlockState, initWith_eq, memWrite_memWrite _ _ _ (Nat.le_refl _)]

theorem sameBlockState_refl (s : State) : SameBlockState s s := rfl

theorem ShowsText.repeated {i : Instr} {text : List CharCode} {places : Option Nat} (h : ShowsText i text places)
    {s : State} (hc : s.configured = true) :
    exec i (showText hardware text places s) = .next (showText hardware text places s) := by
  obtain ⟨⟨hp, hl⟩, hexec⟩ := h
  rw [hexec _ (by rwa [showText_writes _ hp hl]), showText_showText _ hp hl]

/-- Settles O49: INIT and the SHOW operations write the same values again, the others write ports only. -/
theorem repeatedOperationKeepsTheState : Obligations.RepeatedOperationKeepsTheState := by
  intro i s t hstep hshowerr h
  cases i with
  | init p0 p1 p2 p3 p4 p5 =>
    rw [exec_init_next h]
    exact ⟨_, rfl, sameBlockState_initWith _ _ _ _ _ _ _ s⟩
  | step => exact absurd rfl hstep
  | showi a => obtain ⟨hc, rfl⟩ := exec_showi_next h; exact ⟨_, (showsText_showi a).repeated hc, sameBlockState_refl _⟩
  | showf a b => obtain ⟨hc, v, hf, rfl⟩ := exec_showf_next h; exact ⟨_, (showsText_showf hf).repeated hc, sameBlockState_refl _⟩
  | showh a => obtain ⟨hc, rfl⟩ := exec_showh_next h; exact ⟨_, (showsText_showh a).repeated hc, sameBlockState_refl _⟩
  | showrsv a b => obtain ⟨hc, rfl⟩ := exec_showrsv_next h; exact ⟨_, execShowrsv_eq (exec_configured h hc) a b, rfl⟩
  | showerr => exact absurd rfl hshowerr
  | encode b =>
    rw [exec_encode_next h]
    exact ⟨_, rfl, by simp only [SameBlockState, encodeWith_eq]⟩
  | adddp b => rw [exec_adddp_next h]; exact ⟨_, rfl, rfl⟩

/-! The digit lines -/

/-- R64: the last action on a pin decides the level of its line. -/
theorem lineLevel_concat (before : List PinAction) (a : PinAction) :
    lineLevel (actionPin a) (before ++ [a]) = actionLevel a := by
  simp [lineLevel]

/-- Only the last event of a longer trace adds to what the trace before it enabled. -/
theorem digitEnabled_concat (trace : List Event) (e : Event) (j : Fin nDigits) :
    digitEnabled (trace ++ [e]) j = enabledAfter j (digitEnabled trace j) e := by
  simp [digitEnabled]

/-- Settles O54: the digit event's one action is the last on its pin, and its one event the last on its digit. -/
theorem digitEventsDriveTheirLines : Obligations.DigitEventsDriveTheirLines := by
  intro s i on before trace
  refine ⟨?_, fun j => ?_, fun j code => digitEnabled_concat _ _ j, fun j kind info => digitEnabled_concat _ _ j⟩
  · have hlevel := lineLevel_concat before (.digitLine s.pinDig[i] on)
    exact hlevel.trans (by cases on <;> simp [actionLevel])
  · rw [digitEnabled_concat]
    simp only [enabledAfter, eq_comm]

/-! The shift register -/

/-- The pin actions that send one bit: the data line, then a pulse of the clock line (R65). -/
def bitActions (dataPin clkPin : Byte) (bit : Bool) : List PinAction := [.dataLine dataPin bit, .clockPulse clkPin]

theorem pinActions_shiftOut (s : State) (code : Seg) :
    pinActions s (.shiftOut code) = (serialBits code).flatMap (bitActions s.pinData s.pinClk) := rfl

/-- Sending one bit moves every stage on by one and puts the bit in the first. -/
theorem stages_bitActions (dataPin clkPin : Byte) (r : ShiftRegister) (bit : Bool) :
    (shiftActions dataPin clkPin r (bitActions dataPin clkPin bit)).stages =
      r.stages <<< 1 ||| BitVec.ofNat 8 bit.toNat := by
  simp [shiftActions, bitActions, shiftAction]

theorem getLsbD_shift_zero (w : BitVec 8) (bit : Bool) : (w <<< 1 ||| BitVec.ofNat 8 bit.toNat).getLsbD 0 = bit := by
  cases bit <;> simp

theorem getLsbD_shift_succ (w : BitVec 8) (bit : Bool) {k : Nat} (hk : k + 1 < 8) :
    (w <<< 1 ||| BitVec.ofNat 8 bit.toNat).getLsbD (k + 1) = w.getLsbD k := by
  cases bit <;> simp [hk, BitVec.getLsbD_eq_getElem (show k < 8 by omega)]

/-- After some bits, the stages hold them, the last one first, and behind them what the register held. -/
theorem getLsbD_stages_bits (dataPin clkPin : Byte) (r : ShiftRegister) (bits : List Bool) {k : Nat} (hk : k < 8) :
    (shiftActions dataPin clkPin r (bits.flatMap (bitActions dataPin clkPin))).stages.getLsbD k =
      (bits.reverse[k]?).getD (r.stages.getLsbD (k - bits.length)) := by
  induction bits using List.reverseRecOn generalizing k with
  | nil => simp [shiftActions]
  | append_singleton bits bit ih =>
    have hstages : (shiftActions dataPin clkPin r ((bits ++ [bit]).flatMap (bitActions dataPin clkPin))).stages =
        (shiftActions dataPin clkPin r (bits.flatMap (bitActions dataPin clkPin))).stages <<< 1 |||
          BitVec.ofNat 8 bit.toNat := by
      rw [← stages_bitActions dataPin clkPin]
      simp [shiftActions]
    rw [hstages]
    cases k with
    | zero => rw [getLsbD_shift_zero]; simp
    | succ k => rw [getLsbD_shift_succ _ _ hk, ih (by omega)]; simp

/-- Settles O55: the eight bits of the code push out whatever the register held. -/
theorem shiftOutFillsTheShiftRegister : Obligations.ShiftOutFillsTheShiftRegister := by
  intro s r code k hk
  have hbit : (serialBits code).reverse[k]? = some (code.getLsbD (7 - k)) := by
    rw [List.getElem?_reverse (by simpa [serialBits] using hk)]
    simp [serialBits, show 7 - k < 8 by omega]
  rw [pinActions_shiftOut, getLsbD_stages_bits _ _ _ _ hk, hbit, Option.getD_some]

/-! One step -/

/-- Settles O7: a command issued in turn is put on the ports by `issue`, then decoded and run. -/
theorem stepRunsTheDecodedOperation : Obligations.StepRunsTheDecodedOperation := by
  intro s x rest hx ho
  exact ⟨fun i hd => step_instr hx ho hd, fun op hd => (step_undefined hx ho hd).trans (execUndefined_eq _ _)⟩

/-- Settles O10: a step looks at the host list and the overlap flag before it decodes anything. -/
theorem overlappingCommandFaultsAndIdleBlockRests : Obligations.OverlappingCommandFaultsAndIdleBlockRests :=
  fun _ => ⟨fun _ _ hx ho => step_overlap hx ho, fun h => step_idle h⟩

end Sys2Proof.Machine
end

section
/-! The command encoding, the encoder ROM's glyph codes and whitelist, and the text form: family 30_encoding.md. -/

namespace Sys2Proof.Machine

open Sys2Proof Sys2Proof.Laws

/-! The operation a command carries -/

/-- Every operation's own command decodes to it, is canonical, and has its format (R87, R88). -/
theorem canonical (i : Instr) : Canonical.Statement i := by
  cases i with
  | init p0 p1 p2 p3 p4 p5 => exact Canonical.init p0 p1 p2 p3 p4 p5
  | step => exact Canonical.step
  | showi a => exact Canonical.showi a
  | showf a b => exact Canonical.showf a b
  | showh a => exact Canonical.showh a
  | showrsv a b => exact Canonical.showrsv a b
  | showerr => exact Canonical.showerr
  | encode b => exact Canonical.encode b
  | adddp b => exact Canonical.adddp b

/-- Two commands with one opcode and the same values on the operand ports that a format lists (R87). -/
def SamePorts (f : Format) (c d : Command) : Prop :=
  d.op = c.op ∧ (f.hasA = true → d.a = c.a) ∧ (f.hasB = true → d.b = c.b) ∧
    (f.hasP = true → d.p0 = c.p0 ∧ d.p1 = c.p1 ∧ d.p2 = c.p2 ∧ d.p3 = c.p3 ∧ d.p4 = c.p4 ∧ d.p5 = c.p5)

theorem SamePorts.trans {f : Format} {c d e : Command} (h : SamePorts f c d) (h' : SamePorts f d e) : SamePorts f c e := by
  obtain ⟨hop, ha, hb, hp⟩ := h
  obtain ⟨hop', ha', hb', hp'⟩ := h'
  refine ⟨hop'.trans hop, fun hf => (ha' hf).trans (ha hf), fun hf => (hb' hf).trans (hb hf), fun hf => ?_⟩
  obtain ⟨h0, h1, h2, h3, h4, h5⟩ := hp hf
  obtain ⟨h0', h1', h2', h3', h4', h5'⟩ := hp' hf
  exact ⟨h0'.trans h0, h1'.trans h1, h2'.trans h2, h3'.trans h3, h4'.trans h4, h5'.trans h5⟩

/-- Canonical commands are told apart by the opcode and the ports of the format. -/
theorem SamePorts.eq_of_wf {f : Format} {c d : Command} (h : SamePorts f c d) (hc : c.wf f = true) (hd : d.wf f = true) :
    c = d := by
  cases c
  cases d
  cases f <;> simp_all [SamePorts, Command.wf, Format.hasA, Format.hasB, Format.hasP]

/-- R88, R92: a command decodes to an operation exactly when it has the operation's opcode and operands on the ports of its
format. -/
theorem decode_eq_instr_iff (c : Command) (i : Instr) : decode c = .instr i ↔ SamePorts i.format (encode i) c := by
  constructor
  · intro h
    have hop := (opcode_of_decode h).symm
    cases i <;> simp_all [decode, SamePorts, encode, Command.bare, Instr.opcode, Instr.format, Format.hasA, Format.hasB,
      Format.hasP]
  · rintro ⟨hop, ha, hb, hp⟩
    cases i <;> simp_all [decode, encode, Command.bare, Instr.opcode, Instr.format, Format.hasA, Format.hasB, Format.hasP]

/-- Settles O2: the command and the operation's own command agree on the format's ports, and both are zero elsewhere. -/
theorem canonicalCommandEncodesBack : Obligations.CanonicalCommandEncodesBack := by
  intro c i h hc
  obtain ⟨_, hwf, _⟩ := canonical i
  exact ((decode_eq_instr_iff c i).1 h).eq_of_wf hwf hc

/-- Settles O3: agreeing with the first command, the second agrees with the operation's own command too. -/
theorem decoderReadsOnlyTheFormatsPorts : Obligations.DecoderReadsOnlyTheFormatsPorts := by
  intro c d i h hop ha hb hp
  have hcd : SamePorts i.format c d := ⟨hop, ha, hb, hp⟩
  exact (decode_eq_instr_iff d i).2 (((decode_eq_instr_iff c i).1 h).trans hcd)

/-! A command as one number (assumption 2) -/

/-- A number of one field is that field. -/
theorem fieldAt_toNat {width : Nat} (v : BitVec width) : fieldAt v.toNat 0 width = v := by
  simp [fieldAt]

/-- A field put on top of a number of `lo` bits is read back. -/
theorem fieldAt_add_top {x lo width : Nat} (v : BitVec width) (hx : x < 2 ^ lo) :
    fieldAt (x + v.toNat * 2 ^ lo) lo width = v := by
  have hshift : (x + v.toNat * 2 ^ lo) >>> lo = v.toNat := by
    rw [Nat.shiftRight_eq_div_pow, Nat.add_mul_div_right _ _ (by positivity), Nat.div_eq_of_lt hx, Nat.zero_add]
  rw [fieldAt, hshift, BitVec.ofNat_toNat, BitVec.setWidth_eq]

/-- What stands from bit `top` on does not reach a field that ends below it. -/
theorem fieldAt_add_below {x top lo width : Nat} (y : Nat) (h : lo + width ≤ top) :
    fieldAt (x + y * 2 ^ top) lo width = fieldAt x lo width := by
  obtain ⟨k, rfl⟩ := Nat.exists_eq_add_of_le h
  have hsplit : y * 2 ^ (lo + width + k) = 2 ^ lo * (2 ^ width * (y * 2 ^ k)) := by ring
  rw [fieldAt, fieldAt, Nat.shiftRight_eq_div_pow, Nat.shiftRight_eq_div_pow, hsplit,
    Nat.add_mul_div_left _ _ (by positivity)]
  apply BitVec.eq_of_toNat_eq
  simp

/-! What a number stands for, one lemma for each format of R87 -/

section OfBits

variable {w : Nat} {op b p0 p1 p2 p3 p4 p5 : Byte} {a : Word}

theorem ofBits_of_N (hf : formatOf op = some .N) (hop : fieldAt w 0 8 = op) : Command.ofBits w = Command.bare op := by
  simp only [Command.ofBits, Command.bare, hop, hf]

theorem ofBits_of_V (hf : formatOf op = some .V) (hop : fieldAt w 0 8 = op) (ha : fieldAt w 8 32 = a) :
    Command.ofBits w = { Command.bare op with a := a } := by
  simp only [Command.ofBits, Command.bare, hop, hf, ha]

theorem ofBits_of_VF (hf : formatOf op = some .VF) (hop : fieldAt w 0 8 = op) (ha : fieldAt w 8 32 = a)
    (hb : fieldAt w 40 8 = b) : Command.ofBits w = { Command.bare op with a := a, b := b } := by
  simp only [Command.ofBits, Command.bare, hop, hf, ha, hb]

theorem ofBits_of_C (hf : formatOf op = some .C) (hop : fieldAt w 0 8 = op) (hb : fieldAt w 8 8 = b) :
    Command.ofBits w = { Command.bare op with b := b } := by
  simp only [Command.ofBits, Command.bare, hop, hf, hb]

theorem ofBits_of_P (hf : formatOf op = some .P) (hop : fieldAt w 0 8 = op) (h0 : fieldAt w 8 8 = p0)
    (h1 : fieldAt w 16 8 = p1) (h2 : fieldAt w 24 8 = p2) (h3 : fieldAt w 32 8 = p3) (h4 : fieldAt w 40 8 = p4)
    (h5 : fieldAt w 48 8 = p5) :
    Command.ofBits w = { Command.bare op with p0 := p0, p1 := p1, p2 := p2, p3 := p3, p4 := p4, p5 := p5 } := by
  simp only [Command.ofBits, Command.bare, hop, hf, h0, h1, h2, h3, h4, h5]

end OfBits

/-- Every field of the operation's number stands where its format puts it. -/
theorem ofBits_encodeBits (i : Instr) : Command.ofBits (encodeBits i) = encode i := by
  cases i
  case' init => refine ofBits_of_P rfl ?_ ?_ ?_ ?_ ?_ ?_ ?_
  case' step | showerr => refine ofBits_of_N rfl ?_
  case' showi | showh => refine ofBits_of_V rfl ?_ ?_
  case' showf | showrsv => refine ofBits_of_VF rfl ?_ ?_ ?_
  case' encode | adddp => refine ofBits_of_C rfl ?_ ?_
  all_goals
    simp (disch := omega) only [encodeBits, fieldAt_toNat, fieldAt_add_top, fieldAt_add_below, -Nat.reducePow]

/-- Every field of the operation's number ends inside its format's bits. -/
theorem encodeBits_lt (i : Instr) : encodeBits i < 2 ^ i.format.bits := by
  cases i <;> simp only [encodeBits, Instr.format, Format.bits] <;> omega

theorem decodeTableWord_eq_some_iff (nbits w : Nat) (i : Instr) :
    decodeTableWord nbits w = some i ↔ decode (Command.ofBits (w % 2 ^ nbits)) = .instr i := by
  unfold decodeTableWord
  cases decode (Command.ofBits (w % 2 ^ nbits)) <;> simp

/-- Settles O1: the width cuts nothing off, and the number stands for the operation's own command. -/
theorem decodeReadsEncodedBits : Obligations.DecodeReadsEncodedBits := by
  intro i nbits hn
  have hlt := encodeBits_lt i
  obtain ⟨hdecode, _⟩ := canonical i
  refine ⟨hlt, (decodeTableWord_eq_some_iff _ _ _).2 ?_⟩
  rw [Nat.mod_eq_of_lt (hlt.trans_le (Nat.pow_le_pow_right (by decide) hn)), ofBits_encodeBits, hdecode]

/-- Settles O4: R88 on fixed words. -/
theorem decoderReadsWrittenWords : Obligations.DecoderReadsWrittenWords := by
  unfold Obligations.DecoderReadsWrittenWords
  decide

/-! A stored number (assumption 3) -/

theorem host_withFetchWord (s : State) (nbits w : Nat) : (s.withFetchWord nbits w).host =
    { cmd := Command.ofBits (w % 2 ^ nbits), now := s.clock, overlaps := false } :: s.host := rfl

theorem issue_withFetchWord (s : State) (nbits w : Nat) :
    issue s.clock s.host (s.withFetchWord nbits w) = { s with result := none } := rfl

/-- Settles O8: the stored number is the command at the head of the host's list, issued in turn. -/
theorem stepRunsTheStoredWord : Obligations.StepRunsTheStoredWord := by
  intro s nbits w i h
  have hd := (decodeTableWord_eq_some_iff nbits w i).1 h
  rw [step_instr (host_withFetchWord s nbits w) rfl hd, issue_withFetchWord]

/-! The opcodes outside the map -/

/-- The nine opcodes of the map of R88. -/
def mappedOpcodes : List Byte := [0x01#8, 0x02#8, 0x10#8, 0x11#8, 0x12#8, 0x13#8, 0x20#8, 0x30#8, 0x31#8]

/-- R91: the opcode reported is the command's own. -/
theorem op_of_decode_undefined {c : Command} {op : Byte} (h : decode c = .undefined op) : op = c.op := by
  unfold decode at h
  split at h
  all_goals cases h
  rfl

theorem decode_eq_undefined_iff (c : Command) : decode c = .undefined c.op ↔ c.op ∉ mappedOpcodes := by
  unfold decode mappedOpcodes
  split <;> simp_all

theorem formatOf_eq_none_iff (op : Byte) : formatOf op = none ↔ op ∉ mappedOpcodes := by
  refine Iff.trans ?_ (decode_eq_undefined_iff (Command.bare op))
  unfold formatOf
  cases h : decode (Command.bare op) with
  | instr i => simp
  | undefined op' => simp [op_of_decode_undefined h]

theorem ofNat_mem_iff (ops : List Byte) {n : Nat} (hn : n < 256) :
    BitVec.ofNat 8 n ∈ ops ↔ n ∈ (ops.map BitVec.toNat).toFinset := by
  rw [List.mem_toFinset, List.mem_map]
  constructor
  · exact fun h => ⟨_, h, Nat.mod_eq_of_lt hn⟩
  · rintro ⟨op, hop, rfl⟩
    rwa [BitVec.ofNat_toNat, BitVec.setWidth_eq]

/-- R91: the opcodes without a format are the 256 bytes but for the nine of the map. -/
theorem length_unmapped : ((List.range 256).filter fun n => formatOf (BitVec.ofNat 8 n) = none).length = 247 := by
  have hmapped : ∀ n ∈ List.range 256, decide (formatOf (BitVec.ofNat 8 n) = none) =
      decide (n ∉ (mappedOpcodes.map BitVec.toNat).toFinset) := fun n hn =>
    decide_eq_decide.2 <| (formatOf_eq_none_iff _).trans (not_congr (ofNat_mem_iff mappedOpcodes (List.mem_range.1 hn)))
  have hbyte : (mappedOpcodes.map BitVec.toNat).toFinset ⊆ Finset.range 256 := by
    simp [mappedOpcodes, Finset.insert_subset_iff]
  rw [List.filter_congr hmapped]
  calc ((List.range 256).filter fun n => n ∉ (mappedOpcodes.map BitVec.toNat).toFinset).length
    _ = ((Finset.range 256).filter fun n => n ∉ (mappedOpcodes.map BitVec.toNat).toFinset).card := rfl
    _ = (Finset.range 256 \ (mappedOpcodes.map BitVec.toNat).toFinset).card := by rw [Finset.filter_notMem_eq_sdiff]
    _ = 256 - 9 := by rw [Finset.card_sdiff_of_subset hbyte, Finset.card_range]; rfl

/-- Settles O5: R91 command by command, and the count of the other opcodes. -/
theorem undefinedOpcodesAreTheUnmappedOnes : Obligations.UndefinedOpcodesAreTheUnmappedOnes :=
  ⟨fun c => ⟨decode_eq_undefined_iff c, fun _ => op_of_decode_undefined⟩, length_unmapped⟩

/-! The text form -/

/-- Settles O6: the assembler runs on each line. -/
theorem assemblerReadsTheTextForms : Obligations.AssemblerReadsTheTextForms := by
  refine ⟨?_, ?_, ?_, ?_, ?_, ?_, ?_⟩ <;> decide

/-! The encoder ROM -/

/-- R111 to R114: the ROM accepts a character that is a base symbol or a dot alias, and no other. -/
theorem rom_ok_iff (p : Params) (c : CharCode) :
    (rom p c).ok = true ↔ (baseSymbol c).isSome = true ∨ (aliasDigit p c).isSome = true := by
  cases hb : baseSymbol c with
  | some sym => simp [rom_of_base p hb]
  | none =>
    cases ha : aliasDigit p c with
    | some n => simp [rom_of_alias p hb ha]
    | none => simp [rom_of_unsupported p hb ha]

/-- Settles O17: the base symbols and the dot aliases of R84, looked for in all 256 characters. -/
theorem romAcceptsExactlyTheWhitelist : Obligations.RomAcceptsExactlyTheWhitelist := by
  refine ⟨fun c => ?_, rfl, by decide⟩
  rw [rom_ok_iff]
  revert c
  decide

/-! The glyph codes -/

/-- Clearing one bit is what AddDP does to the decimal point's. -/
theorem getLsbD_clearBit (x : Seg) (b : Fin 8) (i : Nat) :
    (x &&& ~~~(1#8 <<< b.val)).getLsbD i = (x.getLsbD i && decide (i ≠ b.val)) :=
  getLsbD_addDP { hardware with dpBit := b } x i

/-- R112: a bit of a symbol's code is 0 exactly when it belongs to a segment of the glyph. -/
theorem getLsbD_glyphCode (p : Params) (sym : Symbol) (b : Fin 8) :
    (glyphCode p sym).getLsbD b.val = !decide (∃ seg ∈ p.glyph sym, p.segBit seg = b) := by
  unfold glyphCode
  induction p.glyph sym using List.reverseRecOn with
  | nil =>
    have hblank : ∀ b : Fin 8, (0xFF#8).getLsbD b.val = true := by decide
    simpa using hblank b
  | append_singleton segs seg ih =>
    rw [List.foldl_append, List.foldl_cons, List.foldl_nil, getLsbD_clearBit, ih]
    simp [Fin.ext_iff, eq_comm]

theorem mem_segmentAll (seg : Segment) : seg ∈ Segment.all := by
  cases seg <;> decide

/-- R80: with eight different bits, no segment has the decimal point's bit and no two segments share one. -/
theorem segBit_of_bitsDistinct {p : Params} (h : p.bitsDistinct = true) :
    (∀ seg, p.segBit seg ≠ p.dpBit) ∧ Function.Injective p.segBit := by
  obtain ⟨hpoint, hsegs⟩ := List.nodup_cons.1 (of_decide_eq_true h)
  exact ⟨fun seg he => hpoint (List.mem_map.2 ⟨seg, mem_segmentAll seg, he⟩),
    fun x y he => List.inj_on_of_nodup_map hsegs (mem_segmentAll x) (mem_segmentAll y) he⟩

/-- Settles O22: a segment's bit is cleared by that segment alone, and the point's by none. -/
theorem glyphCodeLightsExactlyItsGlyph : Obligations.GlyphCodeLightsExactlyItsGlyph := by
  intro p hp sym seg
  obtain ⟨hpoint, hinj⟩ := segBit_of_bitsDistinct hp
  rw [segmentLit, pointLit, getLsbD_glyphCode, getLsbD_glyphCode]
  simp [hpoint, hinj.eq_iff]

end Sys2Proof.Machine
end

section
/-! The encoder ROM's entries and the two encoder operations: family 40_symbol_encoder.md. -/

namespace Sys2Proof.Machine

open Sys2Proof

/-! AddDP -/

/-- Settles O23: bit by bit, AddDP answers the operand's bit except at the decimal point. -/
theorem addDPClearsOnlyThePoint : Obligations.AddDPClearsOnlyThePoint := by
  intro p x
  refine ⟨BitVec.eq_of_getLsbD_eq fun i _ => ?_, ?_, fun i hi => ?_⟩
  · simp [getLsbD_addDP]
  · rw [getLsbD_addDP]
    simp
  · simp [getLsbD_addDP, hi]

/-! The two operations -/

theorem decode_of_op_encode {c : Command} (h : c.op = 0x30#8) : decode c = .instr (.encode c.b) :=
  (decode_eq_instr_iff c _).2 ⟨h, nofun, fun _ => rfl, nofun⟩

theorem decode_of_op_adddp {c : Command} (h : c.op = 0x31#8) : decode c = .instr (.adddp c.b) :=
  (decode_eq_instr_iff c _).2 ⟨h, nofun, fun _ => rfl, nofun⟩

theorem exec_encode (b : CharCode) (s : State) : exec (.encode b) s = .next (encodeWith hardware b s) := rfl

theorem exec_adddp (b : Seg) (s : State) : exec (.adddp b) s = .next (adddpWith hardware b s) := rfl

/-- Settles O16: the report is there exactly when the lookup failed. -/
theorem encodeReturnsTheRomEntry : Obligations.EncodeReturnsTheRomEntry := by
  refine ⟨fun c => decode_of_op_encode, fun b s => ⟨fun hok => ?_, fun hok => ?_⟩⟩
  all_goals
    rw [exec_encode, encodeWith_eq]
    simp [hok]

/-- Settles O24: with the decimal point on bit 7, AddDP keeps the seven bits below. -/
theorem adddpReturnsTheCodeWithItsPoint : Obligations.AdddpReturnsTheCodeWithItsPoint := by
  refine ⟨fun c => decode_of_op_adddp, fun b s => ?_⟩
  rw [exec_adddp, adddpWith_eq, addDP_hardware]

/-! The ROM outside the whitelist -/

/-- R114: a failed lookup has the fallback code. -/
theorem rom_of_not_ok (p : Params) {c : CharCode} (h : (rom p c).ok = false) :
    rom p c = { code := fallbackCode p, ok := false } := by
  rw [← Bool.not_eq_true, rom_ok_iff] at h
  simp only [not_or, Option.not_isSome_iff_eq_none] at h
  obtain ⟨hbase, halias⟩ := h
  exact rom_of_unsupported p hbase halias

/-- R84: the digits are the characters 0x30 to 0x39. -/
theorem baseSymbol_digit (n : Fin 10) : baseSymbol (0x30#8 + BitVec.ofNat 8 n.val) = some (.digit n) := by
  revert n
  decide

/-- Settles O18: outside the whitelist the lookup fails, and the fallback is the glyph of 0. -/
theorem romFallsBackToTheZeroPattern : Obligations.RomFallsBackToTheZeroPattern := by
  obtain ⟨hok, _⟩ := romAcceptsExactlyTheWhitelist
  refine ⟨fun c hc => ?_, ?_⟩
  · rw [rom_of_not_ok hardware (Bool.eq_false_iff.2 (mt (hok c).1 hc)), fallbackCode_hardware]
  · have hzero : rom hardware 0x30#8 = { code := fallbackCode hardware, ok := true } :=
      rom_of_base hardware (baseSymbol_digit 0)
    rw [hzero, fallbackCode_hardware]

/-! The base symbols -/

/-- R112: every glyph lists its segments in the order of `Segment.all`, each once. -/
theorem filter_mem_glyph_hardware (sym : Symbol) :
    Segment.all.filter (fun seg => decide (seg ∈ hardware.glyph sym)) = hardware.glyph sym := by
  cases sym
  case digit n =>
    revert n
    decide
  all_goals decide

/-- R81, R112: the segments a symbol's code lights are those of its glyph. -/
theorem filter_segmentLit_glyphCode (sym : Symbol) :
    Segment.all.filter (segmentLit hardware · (glyphCode hardware sym)) = hardware.glyph sym := by
  have hlit := glyphCodeLightsExactlyItsGlyph hardware (by decide) sym
  rw [← filter_mem_glyph_hardware sym]
  exact List.filter_congr fun seg _ => (hlit seg).1

theorem pointLit_glyphCode (sym : Symbol) : pointLit hardware (glyphCode hardware sym) = false :=
  (glyphCodeLightsExactlyItsGlyph hardware (by decide) sym .a).2

/-- Settles O19: each row gives the glyph and the code of its character's base symbol. -/
theorem romHoldsTheBaseSymbols : Obligations.RomHoldsTheBaseSymbols := by
  intro row hrow
  have hsym : (baseSymbol row.1).map (fun sym => (hardware.glyph sym, glyphCode hardware sym)) = some row.2 := by
    revert row
    decide
  obtain ⟨sym, hbase, hglyph⟩ := Option.map_eq_some_iff.1 hsym
  rw [← hglyph]
  exact ⟨rom_of_base hardware hbase, filter_segmentLit_glyphCode sym, pointLit_glyphCode sym⟩

/-- Settles O20: both cases of a letter have one base symbol, and the ROM entry is made of it. -/
theorem lettersAreCaseInsensitive : Obligations.LettersAreCaseInsensitive := by
  intro p c hc
  have hsym : baseSymbol (c + 0x20#8) = baseSymbol c ∧ (baseSymbol c).isSome = true := by
    revert c
    decide
  obtain ⟨hcase, hsome⟩ := hsym
  obtain ⟨sym, hbase⟩ := Option.isSome_iff_exists.1 hsome
  rw [rom_of_base p (hcase.trans hbase), rom_of_base p hbase]

/-! The dot aliases -/

theorem baseSymbol_dotAlias (n : Fin 10) : baseSymbol (hardware.dotAlias n) = none := by
  revert n
  decide

theorem aliasDigit_dotAlias (n : Fin 10) : aliasDigit hardware (hardware.dotAlias n) = some n := by
  revert n
  decide

/-- R113: the alias of a digit has the digit's code with its point. -/
theorem rom_dotAlias (n : Fin 10) :
    rom hardware (hardware.dotAlias n) = { code := addDP hardware (glyphCode hardware (.digit n)), ok := true } :=
  rom_of_alias hardware (baseSymbol_dotAlias n) (aliasDigit_dotAlias n)

/-- A row of R113's table: the alias character of a digit, the digit and the alias's code. -/
def dotAliasRow (n : Fin 10) : CharCode × Fin 10 × Seg :=
  (hardware.dotAlias n, n, addDP hardware (glyphCode hardware (.digit n)))

/-- Settles O21: the ten rows of the table are those of the ten digits. -/
theorem dotAliasIsTheDigitWithItsPoint : Obligations.DotAliasIsTheDigitWithItsPoint := by
  refine ⟨fun n => ?_, fun row hrow => ?_⟩
  · rw [rom_dotAlias, rom_of_base hardware (baseSymbol_digit n), addDP_hardware]
  · have hmem : row ∈ (List.finRange 10).map dotAliasRow := hrow
    obtain ⟨n, _, rfl⟩ := List.mem_map.1 hmem
    exact ⟨rfl, rom_dotAlias n⟩

end Sys2Proof.Machine
end

section
/-! The formatter and the SHOW operations: family 41_display_update.md. -/

namespace Sys2Proof.Machine

open Sys2Proof Sys2Proof.Safety

/-! The texts -/

theorem digitsToNat_append_singleton (b : Nat) (ds : List Nat) (d : Nat) :
    digitsToNat b (ds ++ [d]) = digitsToNat b ds * b + d := by
  simp [digitsToNat]

theorem div_lt_two_pow {b fuel n : Nat} (hb : 2 ≤ b) (h : n < 2 ^ (fuel + 1)) : n / b < 2 ^ fuel := by
  have hdiv : n / b ≤ n / 2 := Nat.div_le_div_left hb (by omega)
  omega

/-- A number below `2^fuel` runs out of digits before the fuel does. -/
theorem digitsToNat_digitsOf {b : Nat} (hb : 2 ≤ b) {fuel n : Nat} (h : n < 2 ^ fuel) :
    digitsToNat b (digitsOf b fuel n) = n := by
  induction fuel generalizing n with
  | zero =>
    have hn : n = 0 := by omega
    rw [hn]
    rfl
  | succ fuel ih =>
    rw [digitsOf]
    split
    · simp [digitsToNat]
    · rw [digitsToNat_append_singleton, ih (div_lt_two_pow hb h), Nat.mul_comm]
      exact Nat.div_add_mod n b

/-- The first digit of a positive number is not 0. -/
theorem head?_digitsOf {b : Nat} (hb : 2 ≤ b) {fuel n : Nat} (h : n < 2 ^ fuel) (hn : 0 < n) :
    (digitsOf b fuel n).head? ≠ some 0 := by
  induction fuel generalizing n with
  | zero => simp [digitsOf]
  | succ fuel ih =>
    rw [digitsOf]
    split
    · simpa using hn.ne'
    · have hdiv := div_lt_two_pow hb h
      have hpos : 0 < n / b := Nat.div_pos (by omega) (by omega)
      have hfuel : 0 < fuel := Nat.pos_of_ne_zero (by rintro rfl; omega)
      rw [List.head?_append_of_ne_nil _ (digitsOf_ne_nil b fuel (n / b) hfuel)]
      exact ih hdiv hpos

/-- R143, R145: the minimal digits of a number, in any base from 2 on. -/
theorem digitsToNat_minimalDigits {b : Nat} (hb : 2 ≤ b) (n : Nat) : digitsToNat b (minimalDigits b n) = n :=
  digitsToNat_digitsOf hb Nat.lt_log2_self

theorem noLeadingZero_minimalDigits {b : Nat} (hb : 2 ≤ b) (n : Nat) : noLeadingZero (minimalDigits b n) := by
  rcases Nat.eq_zero_or_pos n with rfl | hn
  · left
    simp [minimalDigits, digitsOf, show 0 < b by omega]
  · exact .inr ⟨List.length_pos_iff.1 (length_minimalDigits_pos b n), head?_digitsOf hb Nat.lt_log2_self hn⟩

/-- R143: the digit characters of the decimal text are consecutive from `0` on. -/
theorem decText_eq (v : Int) :
    decText v = (if v < 0 then [0x2D#8] else []) ++ (minimalDigits 10 v.natAbs).map fun d => BitVec.ofNat 8 (0x30 + d) := by
  have hchar : (minimalDigits 10 v.natAbs).map digitChar =
      (minimalDigits 10 v.natAbs).map fun d => BitVec.ofNat 8 (0x30 + d) :=
    List.map_congr_left fun d hd => if_pos (minimalDigits_digit_lt (by omega) _ d hd)
  rw [decText, hchar]
  split <;> rfl

/-- Settles O25: the digits are the minimal base-10 digits of the size. -/
theorem decTextIsMinimalSignedDecimal : Obligations.DecTextIsMinimalSignedDecimal := fun v =>
  ⟨minimalDigits 10 v.natAbs, minimalDigits_digit_lt (by omega) _, digitsToNat_minimalDigits (by omega) _,
    noLeadingZero_minimalDigits (by omega) _, decText_eq v⟩

/-- Settles O26: the digits are the minimal base-16 digits, and a `u32` is below `16^8`. -/
theorem hexTextIsMinimalLowerCaseHex : Obligations.HexTextIsMinimalLowerCaseHex := fun a =>
  ⟨minimalDigits 16 a.toNat, minimalDigits_digit_lt (by omega) _, digitsToNat_minimalDigits (by omega) _,
    noLeadingZero_minimalDigits (by omega) _, length_minimalDigits_pos 16 _,
    length_minimalDigits_le _ 8 (by omega) a.isLt, rfl⟩

/-! WriteInputBuffer -/

/-- R142, R252: the report joins the trace, and drives no pin. -/
theorem writeInputBuffer_eq (t : List CharCode) (s : State) :
    writeInputBuffer t s =
      { s with inBuf := writeText s.inBuf t, trace := s.trace ++ overflowEvents maxIn t } := by
  have hpins : (overflowEvents maxIn t).flatMap (pinActions { s with inBuf := writeText s.inBuf t }) = [] := by
    unfold overflowEvents
    split <;> rfl
  rw [writeInputBuffer, emitAll_eq, hpins, List.append_nil]

theorem overflowEvents_of_long {m : Nat} {t : List CharCode} (h : m - 1 < t.length) :
    overflowEvents m t = [.diag .formatOverflow t.length] :=
  if_neg (Nat.not_le.2 h)

/-- R142: a text that fits, its terminator, and the old entries behind it. -/
theorem getElem_writeText_of_fits {m : Nat} (buf : Vector CharCode m) {t : List CharCode} (h : t.length ≤ m - 1)
    {k : Nat} (hk : k < m) :
    (writeText buf t)[k] = if hkt : k < t.length then t[k] else if k = t.length then 0x00#8 else buf[k] := by
  simp only [writeText_of_fits buf h, getElem_memWrite, Nat.zero_le, if_true, Nat.sub_zero]
  rcases Nat.lt_trichotomy k t.length with hlt | rfl | hgt
  · simp [hlt, List.getElem?_append_left]
  · simp
  · have hout : (t ++ [0x00#8]).length ≤ k := by simpa using hgt
    simp [List.getElem?_eq_none hout, Nat.not_lt_of_gt hgt, Nat.ne_of_gt hgt]

/-- R142: a text that does not fit fills the buffer but for its last entry, the terminator. -/
theorem getElem_writeText_of_long {m : Nat} (buf : Vector CharCode m) {t : List CharCode} (h : m - 1 < t.length)
    {k : Nat} (hk : k < m) :
    (writeText buf t)[k] = if hkm : k < m - 1 then t[k]'(by omega) else 0x00#8 := by
  have hlen : (keptText m t).length = m - 1 := List.length_take_of_le h.le
  rw [writeText, getElem_memWrite_inside _ _ _ _ hk (Nat.zero_le k) (by simp [hlen]; omega)]
  simp only [Nat.sub_zero, List.getElem_append, hlen]
  split
  · exact List.getElem_take
  · simp

/-- Settles O27: entry by entry, for a text that fits and for one that does not. -/
theorem writeInputBufferCutsAndReports : Obligations.WriteInputBufferCutsAndReports :=
  ⟨writeInputBuffer_eq, fun _ buf _ _ =>
    ⟨fun h => ⟨overflowEvents_of_fits h, fun _ hk => getElem_writeText_of_fits buf h hk⟩,
      fun h => ⟨overflowEvents_of_long h, fun _ hk => getElem_writeText_of_long buf h hk⟩⟩⟩

/-! What the hardware shows of some codes -/

theorem pointCodes_none (t : List CharCode) : pointCodes hardware t none = codesOf t := rfl

theorem pointCodes_some (t : List CharCode) (dp : Nat) :
    pointCodes hardware t (some dp) = codesWithPoint t ((t.length : Int) - 1 - dp) := rfl

theorem scrollSequence_hardware (codes : List Seg) : scrollSequence hardware codes = padded codes := by
  rw [scrollSequence, blankCode_hardware, padded]

/-- R157: the static frame of codes that SymbolBuffer holds. -/
theorem staticFrame_hardware (v : Vector Seg bufCap) {codes : List Seg} (h : codes.length ≤ nDigits) :
    staticFrame hardware codes.length (memWrite v 0 (codes ++ [0x00#8])) = rightAligned codes := by
  refine Vector.ext fun j hj => ?_
  rw [getElem_staticFrame hardware codes v h j hj]
  simp only [rightAligned, Vector.getElem_ofFn, blankCode_hardware]
  split
  · rename_i hpad
    rw [List.getElem?_append_left (by simpa using hpad)]
    simp [hpad]
  · rename_i hcode
    rw [List.getElem?_append_right (by simpa using hcode), List.length_replicate,
      List.getElem?_eq_getElem (by omega), Option.getD_some]

section ShowsText

variable {i : Instr} {t : List CharCode} {places : Option Nat} {s : State}

/-- R155, R157: what an operation answers whose text has at most four characters. -/
theorem ShowsText.exec_static (h : ShowsText i t places) (hc : s.configured = true) (hl : t.length ≤ 4) :
    exec i s = .next
      { s with
        inBuf := memWrite s.inBuf 0 (t ++ [0x00#8])
        symBuf := memWrite s.symBuf 0 (pointCodes hardware t places ++ [0x00#8])
        symLen := BitVec.ofNat 8 t.length
        frame := rightAligned (pointCodes hardware t places)
        scrollActive := false } := by
  obtain ⟨⟨hp, _⟩, hexec⟩ := h
  have hframe := staticFrame_hardware s.symBuf (codes := pointCodes hardware t places) (by simpa using hl)
  rw [length_pointCodes] at hframe
  rw [hexec s hc, showText_static hardware hp hl, hframe]

/-- R155, R159: what an operation answers whose text is longer. -/
theorem ShowsText.exec_scroll (h : ShowsText i t places) (hc : s.configured = true) (hl : 4 < t.length) :
    exec i s = .next
      { s with
        inBuf := memWrite s.inBuf 0 (t ++ [0x00#8])
        symBuf := memWrite s.symBuf 0 (padded (pointCodes hardware t places) ++ [0x00#8])
        symLen := BitVec.ofNat 8 (3 + t.length + 4)
        scrollFrames := BitVec.ofNat 8 (t.length + 4)
        scrollIdx := 0
        scrollActive := true } := by
  obtain ⟨⟨hp, hfits⟩, hexec⟩ := h
  rw [hexec s hc, showText_scroll hardware hp hfits hl, scrollSequence_hardware]
  rfl

end ShowsText

/-! SHOWI, SHOWH, SHOWF and SHOWRSV -/

theorem decode_of_op_showi {c : Command} (h : c.op = 0x10#8) : decode c = .instr (.showi c.a) :=
  (decode_eq_instr_iff c _).2 ⟨h, fun _ => rfl, nofun, nofun⟩

theorem decode_of_op_showf {c : Command} (h : c.op = 0x11#8) : decode c = .instr (.showf c.a c.b) :=
  (decode_eq_instr_iff c _).2 ⟨h, fun _ => rfl, fun _ => rfl, nofun⟩

theorem decode_of_op_showh {c : Command} (h : c.op = 0x12#8) : decode c = .instr (.showh c.a) :=
  (decode_eq_instr_iff c _).2 ⟨h, fun _ => rfl, nofun, nofun⟩

theorem decode_of_op_showrsv {c : Command} (h : c.op = 0x13#8) : decode c = .instr (.showrsv c.a c.b) :=
  (decode_eq_instr_iff c _).2 ⟨h, fun _ => rfl, fun _ => rfl, nofun⟩

/-- Settles O28: SHOWI shows the decimal text of its operand, without a point. -/
theorem showIntegerShowsItsText : Obligations.ShowIntegerShowsItsText :=
  ⟨fun _ => decode_of_op_showi, fun a _ =>
    ⟨fun hc => whenConfigured_of_false hc _, (showsText_showi a).exec_static, (showsText_showi a).exec_scroll⟩⟩

/-- Settles O29: SHOWH shows the hex text of its operand, without a point. -/
theorem showHexShowsItsText : Obligations.ShowHexShowsItsText :=
  ⟨fun _ => decode_of_op_showh, fun a _ =>
    ⟨fun hc => whenConfigured_of_false hc _, (showsText_showh a).exec_static, (showsText_showh a).exec_scroll⟩⟩

/-- Settles O30: SHOWF shows the decimal text of the number FSCALE gives, with its point; the configured check comes first
and FSCALE's fault second. -/
theorem showFloatShowsItsTextWithPoint : Obligations.ShowFloatShowsItsTextWithPoint :=
  ⟨fun _ => decode_of_op_showf, fun _ _ _ =>
    ⟨fun hc => whenConfigured_of_false hc _, fun hc hf => execShowf_fault hc hf, fun _ hc hf =>
      ⟨(showsText_showf hf).exec_static hc, (showsText_showf hf).exec_scroll hc⟩⟩⟩

/-- Settles O31: the configured check, then one report. -/
theorem reservedSelectorIsReported : Obligations.ReservedSelectorIsReported :=
  ⟨fun _ => decode_of_op_showrsv, fun a b _ =>
    ⟨fun hc => whenConfigured_of_false hc _, fun hc => execShowrsv_eq hc a b⟩⟩

/-! The overlay -/

/-- The state with other values in the four overlay fields (R27, R30). -/
def withOverlay (active valid : Bool) (ts : Word) (bak : Frame) (s : State) : State :=
  { s with errActive := active, bakValid := valid, errTs := ts, frameBak := bak }

/-- R165: the operation leaves the overlay fields alone, and from a state that differs only there it answers the same. -/
def OverlayFree (i : Instr) (s t : State) : Prop :=
  (t.errActive = s.errActive ∧ t.bakValid = s.bakValid ∧ t.errTs = s.errTs ∧ t.frameBak = s.frameBak) ∧
    ∀ active valid ts bak, exec i (withOverlay active valid ts bak s) = .next (withOverlay active valid ts bak t)

/-- R165: showing a text does not read the overlay fields. -/
theorem showText_withOverlay (p : Params) {text : List CharCode} (hp : Printable text) (hl : text.length ≤ maxIn - 1)
    (places : Option Nat) (active valid : Bool) (ts : Word) (bak : Frame) (s : State) :
    showText p text places (withOverlay active valid ts bak s) =
      withOverlay active valid ts bak (showText p text places s) := by
  by_cases hn : nDigits < text.length
  · simp only [showText_scroll p hp hl hn, withOverlay]
  · simp only [showText_static p hp (Nat.not_lt.1 hn), withOverlay]

theorem ShowsText.overlayFree {i : Instr} {text : List CharCode} {places : Option Nat} (h : ShowsText i text places)
    {s : State} (hc : s.configured = true) : OverlayFree i s (showText hardware text places s) := by
  obtain ⟨⟨hp, hl⟩, hexec⟩ := h
  refine ⟨by rw [showText_writes _ hp hl]; exact ⟨rfl, rfl, rfl, rfl⟩, fun active valid ts bak => ?_⟩
  rw [hexec (withOverlay active valid ts bak s) hc, showText_withOverlay _ hp hl]

/-- R165, R164: every operation of the SHOW group leaves the overlay alone. -/
theorem overlayFree_exec {i : Instr} {s t : State} (hi : i.format = .V ∨ i.format = .VF) (h : exec i s = .next t) :
    OverlayFree i s t := by
  cases i with
  | init | step | showerr | encode | adddp => rcases hi with hi | hi <;> cases hi
  | showi a => obtain ⟨hc, rfl⟩ := exec_showi_next h; exact (showsText_showi a).overlayFree hc
  | showf a b => obtain ⟨hc, v, hf, rfl⟩ := exec_showf_next h; exact (showsText_showf hf).overlayFree hc
  | showh a => obtain ⟨hc, rfl⟩ := exec_showh_next h; exact (showsText_showh a).overlayFree hc
  | showrsv a b =>
    obtain ⟨hc, rfl⟩ := exec_showrsv_next h
    exact ⟨⟨rfl, rfl, rfl, rfl⟩, fun active valid ts bak =>
      execShowrsv_eq (s := withOverlay active valid ts bak s) hc a b⟩

/-- Settles O33: operation by operation. -/
theorem showIgnoresTheOverlay : Obligations.ShowIgnoresTheOverlay := by
  intro i s t active valid ts bak hi h
  obtain ⟨⟨hactive, hvalid, hts, hbak⟩, hexec⟩ := overlayFree_exec hi h
  exact ⟨hactive, hvalid, hts, hbak, hexec active valid ts bak⟩

/-! The scroll windows -/

@[simp] theorem length_padded (codes : List Seg) : (padded codes).length = codes.length + 7 := by
  simp [padded]

/-- R160: window `k` of a SymbolBuffer that holds some codes. -/
theorem getElem_scrollWindow_memWrite (v : Vector Seg bufCap) (l : List Seg) (k : Nat) {j : Nat} (hj : j < nDigits)
    (hl : k + j < l.length) (hv : k + j < bufCap) :
    (scrollWindow (memWrite v 0 l) k)[j] = l[k + j] := by
  rw [scrollWindow, Vector.getElem_ofFn]
  exact memRead_memWrite_inside v 0 l (k + j) hv (Nat.zero_le _) hl

/-- R159: the codes stand between blanks. -/
theorem getElem_padded (codes : List Seg) {i : Nat} (hi : i < (padded codes).length) :
    (padded codes)[i] = if h : 3 ≤ i ∧ i - 3 < codes.length then codes[i - 3] else 0xFF#8 := by
  simp only [padded, List.getElem_append, List.length_append, List.length_replicate, List.getElem_replicate]
  by_cases hbefore : i < 3
  · simp [hbefore, Nat.not_le.2 hbefore, show i < 3 + codes.length by omega]
  · by_cases hcode : i - 3 < codes.length
    · simp [hbefore, hcode, Nat.not_lt.1 hbefore, show i < 3 + codes.length by omega]
    · simp [hcode, show ¬ i < 3 + codes.length by omega]

/-- R160: window `k` of a SymbolBuffer that holds padded codes, up to the last window. -/
theorem getElem_scrollWindow_padded (v : Vector Seg bufCap) {codes : List Seg} (hl : codes.length ≤ 12) {k j : Nat}
    (hk : k < codes.length + 4) (hj : j < 4) :
    (scrollWindow (memWrite v 0 (padded codes ++ [0x00#8])) k)[j] =
      (padded codes)[k + j]'(by rw [length_padded]; omega) := by
  have hlen : k + j < (padded codes).length := by rw [length_padded]; omega
  have hcap : k + j < bufCap := by have : bufCap = 20 := rfl; rw [length_padded] at hlen; omega
  rw [scrollWindow, Vector.getElem_ofFn]
  dsimp only
  rw [memRead_memWrite_inside v 0 _ (k + j) hcap (Nat.zero_le _) (by simp; omega)]
  exact List.getElem_append_left hlen

/-- Settles O32: the windows lie inside the padded codes, and those inside SymbolBuffer. -/
theorem scrollWindowsSlideOverThePaddedCodes : Obligations.ScrollWindowsSlideOverThePaddedCodes := by
  intro v codes h hl w
  refine ⟨fun k hk j hj => ?_, Vector.ext fun j hj => ?_, Vector.ext fun j hj => ?_⟩
  · rw [getElem_scrollWindow_padded v hl hk hj]
    exact List.getElem?_eq_getElem _
  · rw [getElem_scrollWindow_padded v hl (by omega) hj, getElem_padded]
    interval_cases j <;> simp [h]
  · rw [getElem_scrollWindow_padded v hl (by omega) hj, getElem_padded, dif_neg (by omega)]
    interval_cases j <;> rfl

end Sys2Proof.Machine
end

section
/-! FSCALE, its rounding and its truncated product (rule R147): family 41_display_update.md. -/

namespace Sys2Proof.Machine

open Sys2Proof Sys2Proof.Safety

/-! A power of two in the model's two natural-number parts -/

theorem two_zpow_eq_div (e : ℤ) : (2 : ℚ) ^ e = 2 ^ e.toNat / 2 ^ (-e).toNat := by
  obtain ⟨n, rfl | rfl⟩ := e.eq_nat_or_neg <;> simp

theorem two_zpow_le_div_iff (e : ℤ) (num : ℕ) {den : ℕ} (hden : 0 < den) :
    (2 : ℚ) ^ e ≤ (num : ℚ) / den ↔ den * 2 ^ e.toNat ≤ num * 2 ^ (-e).toNat := by
  rw [two_zpow_eq_div, div_le_div_iff₀ (by positivity) (by positivity), mul_comm]
  exact_mod_cast Iff.rfl

/-- The value `mant * 2^exp`. -/
def Magnitude.value (m : Magnitude) : ℚ := m.mant * 2 ^ m.exp

theorem Magnitude.value_eq_div (m : Magnitude) :
    m.value = ((m.mant * 2 ^ m.exp.toNat : ℕ) : ℚ) / ((2 ^ (-m.exp).toNat : ℕ) : ℚ) := by
  rw [Magnitude.value, two_zpow_eq_div]
  push_cast
  ring

theorem Magnitude.value_mul (x y : Magnitude) :
    (Magnitude.mk (x.mant * y.mant) (x.exp + y.exp)).value = x.value * y.value := by
  simp only [Magnitude.value, zpow_add₀ (two_ne_zero' ℚ)]
  push_cast
  ring

/-- The binade of 24-bit multiples of the unit begins at one of them. -/
theorem Magnitude.binade_eq_multiple (m : Magnitude) : ((2 ^ 23 : ℕ) : ℚ) * 2 ^ m.exp = 2 ^ (m.exp + 23) := by
  rw [zpow_add₀ two_ne_zero, mul_comm]
  norm_num

/-- Two multiples of one unit are together a unit or more away from any number. -/
theorem Magnitude.unit_le_of_ne {m : Magnitude} (x : ℚ) {k : ℕ} (hk : k ≠ m.mant) :
    2 ^ m.exp ≤ |(k : ℚ) * 2 ^ m.exp - x| + |m.value - x| := by
  have hu : (0 : ℚ) < 2 ^ m.exp := by positivity
  have hone : (1 : ℚ) ≤ |(k : ℚ) - m.mant| := by
    have := Int.one_le_abs (z := (k : ℤ) - m.mant) (by omega)
    exact_mod_cast this
  calc (2 : ℚ) ^ m.exp ≤ |(k : ℚ) - m.mant| * 2 ^ m.exp := le_mul_of_one_le_left hu.le hone
    _ = |(k : ℚ) * 2 ^ m.exp - m.value| := by
      rw [Magnitude.value, ← sub_mul, abs_mul, abs_of_pos hu]
    _ ≤ |(k : ℚ) * 2 ^ m.exp - x| + |m.value - x| := by
      rw [abs_sub_comm m.value x]
      exact abs_sub_le _ _ _

/-! The parts of RNE32 -/

/-- The part of a quotient above its whole part. -/
def fraction (num den : ℕ) : ℚ := (num % den : ℕ) / den

theorem natCast_div_eq_add_fraction (num : ℕ) {den : ℕ} (hden : 0 < den) :
    (num : ℚ) / den = (num / den : ℕ) + fraction num den := by
  have hne : (den : ℚ) ≠ 0 := by exact_mod_cast hden.ne'
  rw [fraction, div_eq_iff hne, add_mul, div_mul_cancel₀ _ hne]
  exact_mod_cast (Nat.div_add_mod' num den).symm

theorem fraction_bounds (num : ℕ) {den : ℕ} (hden : 0 < den) : 0 ≤ fraction num den ∧ fraction num den < 1 := by
  have hpos : (0 : ℚ) < den := by exact_mod_cast hden
  refine ⟨by unfold fraction; positivity, ?_⟩
  rw [fraction, div_lt_one hpos]
  exact_mod_cast Nat.mod_lt num hden

/-- The model's test on the remainder compares the fraction with a half. -/
theorem roundHalfEven_eq (num : ℕ) {den : ℕ} (hden : 0 < den) :
    roundHalfEven num den =
      if 1 / 2 < fraction num den ∨ (fraction num den = 1 / 2 ∧ num / den % 2 = 1) then num / den + 1 else num / den := by
  have hpos : (0 : ℚ) < den := by exact_mod_cast hden
  have hover : den < 2 * (num % den) ↔ 1 / 2 < fraction num den := by
    rw [fraction, div_lt_div_iff₀ two_pos hpos, mul_comm _ (2 : ℚ), one_mul]
    exact_mod_cast Iff.rfl
  have hhalf : 2 * (num % den) = den ↔ fraction num den = 1 / 2 := by
    rw [fraction, div_eq_div_iff hpos.ne' two_ne_zero, mul_comm _ (2 : ℚ), one_mul]
    exact_mod_cast Iff.rfl
  simp only [roundHalfEven, hover, hhalf]

/-- The nearest natural number is at most a half away, and half way it is even. -/
theorem roundHalfEven_near (num : ℕ) {den : ℕ} (hden : 0 < den) :
    |(roundHalfEven num den : ℚ) - num / den| ≤ 1 / 2 ∧
      (|(roundHalfEven num den : ℚ) - num / den| = 1 / 2 → roundHalfEven num den % 2 = 0) := by
  obtain ⟨hnonneg, hlt_one⟩ := fraction_bounds num hden
  rw [natCast_div_eq_add_fraction num hden, roundHalfEven_eq num hden]
  split
  · rename_i hup
    have hdist : |((num / den + 1 : ℕ) : ℚ) - ((num / den : ℕ) + fraction num den)| = 1 - fraction num den := by
      rw [Nat.cast_add_one, add_sub_add_left_eq_sub, abs_of_nonneg (by linarith)]
    rw [hdist]
    rcases hup with habove | ⟨hhalf, hodd⟩
    · exact ⟨by linarith, fun htie => by linarith⟩
    · exact ⟨by linarith, fun _ => by omega⟩
  · rename_i hdown
    rw [not_or, not_and, not_lt] at hdown
    obtain ⟨hbelow, heven⟩ := hdown
    rw [sub_add_cancel_left, abs_neg, abs_of_nonneg hnonneg]
    exact ⟨hbelow, fun htie => by have := heven htie; omega⟩

/-- The binade of a positive quotient. -/
theorem binade_bounds {num den : ℕ} (hnum : 0 < num) (hden : 0 < den) :
    (2 : ℚ) ^ binade num den ≤ (num : ℚ) / den ∧ (num : ℚ) / den < 2 ^ (binade num den + 1) := by
  have hpos : (0 : ℚ) < den := by exact_mod_cast hden
  have hn : (2 : ℚ) ^ (num.log2 : ℤ) ≤ num := by exact_mod_cast Nat.log2_self_le hnum.ne'
  have hn' : (num : ℚ) < 2 ^ (num.log2 + 1 : ℤ) := by exact_mod_cast Nat.lt_log2_self
  have hd : (2 : ℚ) ^ (den.log2 : ℤ) ≤ den := by exact_mod_cast Nat.log2_self_le hden.ne'
  have hd' : (den : ℚ) < 2 ^ (den.log2 + 1 : ℤ) := by exact_mod_cast Nat.lt_log2_self
  have hupper : (num : ℚ) / den < 2 ^ ((num.log2 : ℤ) - den.log2 + 1) := by
    rw [div_lt_iff₀ hpos]
    calc (num : ℚ) < 2 ^ (num.log2 + 1 : ℤ) := hn'
      _ = 2 ^ ((num.log2 : ℤ) - den.log2 + 1) * 2 ^ (den.log2 : ℤ) := by
        rw [← zpow_add₀ two_ne_zero]
        ring_nf
      _ ≤ 2 ^ ((num.log2 : ℤ) - den.log2 + 1) * den := by gcongr
  have hlower : (2 : ℚ) ^ ((num.log2 : ℤ) - den.log2 - 1) ≤ (num : ℚ) / den := by
    rw [le_div_iff₀ hpos]
    calc (2 : ℚ) ^ ((num.log2 : ℤ) - den.log2 - 1) * den
        ≤ 2 ^ ((num.log2 : ℤ) - den.log2 - 1) * 2 ^ (den.log2 + 1 : ℤ) := by gcongr
      _ = 2 ^ (num.log2 : ℤ) := by
        rw [← zpow_add₀ two_ne_zero]
        ring_nf
      _ ≤ num := hn
  simp only [binade, ← two_zpow_le_div_iff _ num hden]
  split
  · exact ⟨‹_›, hupper⟩
  · rename_i hlt
    exact ⟨hlower, by rwa [sub_add_cancel, ← not_le]⟩

/-- R147: the unit in the last place is the 24th bit of the binade, or the subnormal unit. -/
theorem ulpExponent_bounds (num : ℕ) {den : ℕ} (hden : 0 < den) :
    -149 ≤ ulpExponent num den ∧ (num : ℚ) / den < 2 ^ (ulpExponent num den + 24) ∧
      (ulpExponent num den = -149 ∨ (num : ℚ) / den = 0 ∨ 2 ^ (ulpExponent num den + 23) ≤ (num : ℚ) / den) := by
  refine ⟨le_max_right _ _, ?_⟩
  rcases Nat.eq_zero_or_pos num with rfl | hnum
  · simp only [Nat.cast_zero, zero_div, true_or, or_true, and_true]
    positivity
  · obtain ⟨hle, hlt⟩ := binade_bounds hnum hden
    refine ⟨hlt.trans_le (zpow_le_zpow_right₀ one_le_two ?_), ?_⟩
    · unfold ulpExponent
      omega
    · rcases max_choice (binade num den - 23) (-149) with h | h
      · right; right
        rwa [ulpExponent, h, sub_add_cancel]
      · exact .inl h

/-- What makes a magnitude the rounding of `x` in binary32 (R147): its unit is that of the binade of `x`, or the subnormal
one; it is at most half a unit away, and half way it is the even one. -/
structure Rounding (x : ℚ) (m : Magnitude) : Prop where
  exp_ge : -149 ≤ m.exp
  lt_top : x < 2 ^ (m.exp + 24)
  unit : m.exp = -149 ∨ x = 0 ∨ 2 ^ (m.exp + 23) ≤ x
  near : |m.value - x| ≤ 2 ^ m.exp / 2
  even_of_tie : |m.value - x| = 2 ^ m.exp / 2 → m.mant % 2 = 0

/-- RNE32 is a rounding, or an overflow where that reaches `2^128`. -/
theorem rne32_eq (num : ℕ) {den : ℕ} (hden : 0 < den) :
    ∃ m, Rounding ((num : ℚ) / den) m ∧ rne32 num den = if (2 : ℚ) ^ 128 ≤ m.value then none else some m := by
  obtain ⟨hge, htop, hunit⟩ := ulpExponent_bounds num hden
  rw [rne32]
  generalize ulpExponent num den = q at *
  generalize hke : roundHalfEven (num * 2 ^ (-q).toNat) (den * 2 ^ q.toNat) = k
  have hu : (0 : ℚ) < 2 ^ q := by positivity
  have hscaled : ((num * 2 ^ (-q).toNat : ℕ) : ℚ) / ((den * 2 ^ q.toNat : ℕ) : ℚ) = (num : ℚ) / den / 2 ^ q := by
    rw [two_zpow_eq_div]
    push_cast
    field_simp
  have hnear := roundHalfEven_near (num * 2 ^ (-q).toNat) (den := den * 2 ^ q.toNat) (by positivity)
  rw [hke, hscaled] at hnear
  have hdist : |(Magnitude.mk k q).value - (num : ℚ) / den| = |(k : ℚ) - (num : ℚ) / den / 2 ^ q| * 2 ^ q := by
    rw [Magnitude.value, ← abs_of_pos hu, ← abs_mul, abs_of_pos hu, sub_mul, div_mul_cancel₀ _ hu.ne']
  have hover : 2 ^ 128 * 2 ^ (-q).toNat ≤ k * 2 ^ q.toNat ↔ (2 : ℚ) ^ 128 ≤ (Magnitude.mk k q).value := by
    rw [Magnitude.value_eq_div, le_div_iff₀ (by positivity)]
    exact_mod_cast Iff.rfl
  refine ⟨⟨k, q⟩, ⟨hge, htop, hunit, ?_, fun htie => ?_⟩, by simp only [hover]⟩
  · rw [hdist]
    linarith [mul_le_mul_of_nonneg_right hnear.1 hu.le]
  · rw [hdist] at htie
    refine hnear.2 (mul_right_cancel₀ hu.ne' ?_)
    linarith

namespace Rounding

variable {x : ℚ} {m : Magnitude} (h : Rounding x m)

include h

theorem mant_le : m.mant ≤ 2 ^ 24 := by
  have hu : (0 : ℚ) < 2 ^ m.exp := by positivity
  have hx : x < 2 ^ m.exp * 2 ^ (24 : ℤ) := zpow_add₀ (two_ne_zero' ℚ) m.exp 24 ▸ h.lt_top
  have hv : m.mant * 2 ^ m.exp - x ≤ 2 ^ m.exp / 2 := (abs_le.1 h.near).2
  have hlt : (m.mant : ℚ) < 2 ^ (24 : ℤ) + 1 := lt_of_mul_lt_mul_right (by linarith) hu.le
  exact Nat.lt_succ_iff.1 (by exact_mod_cast hlt)

/-- No multiple of the unit is nearer. -/
theorem le_of_multiple (k : ℕ) : |m.value - x| ≤ |(k : ℚ) * 2 ^ m.exp - x| := by
  by_cases hk : k = m.mant
  · rw [hk, Magnitude.value]
  · have hne := Magnitude.unit_le_of_ne x hk
    have hnear := h.near
    linarith

/-- Where another multiple of the unit is as near, the result is the even one. -/
theorem even_of_eq {k : ℕ} (hk : k ≠ m.mant) (heq : |(k : ℚ) * 2 ^ m.exp - x| = |m.value - x|) : m.mant % 2 = 0 := by
  have hne := Magnitude.unit_le_of_ne x hk
  have hnear := h.near
  exact h.even_of_tie (by linarith)

/-- A multiple of the unit below `x` is below the result. -/
theorem multiple_le_value {k : ℕ} (hk : (k : ℚ) * 2 ^ m.exp ≤ x) : (k : ℚ) * 2 ^ m.exp ≤ m.value := by
  have hle := h.le_of_multiple k
  rw [abs_sub_comm ((k : ℚ) * _), abs_of_nonneg (sub_nonneg.2 hk)] at hle
  linarith [(abs_le.1 hle).1]

theorem value_eq_zero (hx : x = 0) : m.value = 0 := by
  have hle := h.le_of_multiple 0
  simpa [hx] using hle

/-- No binary32 value is nearer: a coarser one is a multiple of the unit, and a finer one lies below the binade of `x`. -/
theorem nearest {k : ℕ} {q : ℤ} (hk : k < 2 ^ 24) (hq : -149 ≤ q) : |m.value - x| ≤ |(k : ℚ) * 2 ^ q - x| := by
  rcases le_or_gt m.exp q with hle | hlt
  · obtain ⟨n, rfl⟩ := Int.le.dest hle
    have hmul : (k : ℚ) * 2 ^ (m.exp + n) = ((k * 2 ^ n : ℕ) : ℚ) * 2 ^ m.exp := by
      rw [zpow_add₀ two_ne_zero, zpow_natCast]
      push_cast
      ring
    rw [hmul]
    exact h.le_of_multiple _
  · rcases h.unit with hexp | hzero | hx
    · omega
    · rw [h.value_eq_zero hzero, hzero, sub_zero, abs_zero]
      exact abs_nonneg _
    · have hfine : (k : ℚ) * 2 ^ q ≤ 2 ^ (m.exp + 23) := calc
        (k : ℚ) * 2 ^ q ≤ 2 ^ (24 : ℤ) * 2 ^ (m.exp - 1) := by
          gcongr
          · exact_mod_cast hk.le
          · norm_num
          · omega
        _ = 2 ^ (m.exp + 23) := by
          rw [← zpow_add₀ two_ne_zero]
          ring_nf
      calc
        |m.value - x| ≤ |2 ^ (m.exp + 23) - x| := by
          rw [← m.binade_eq_multiple]
          exact h.le_of_multiple _
        _ ≤ |(k : ℚ) * 2 ^ q - x| := by
          rw [abs_sub_comm, abs_sub_comm _ x, abs_of_nonneg (by linarith), abs_of_nonneg (by linarith)]
          linarith

/-- With the unit `2^104`, the largest value below `2^128` is an odd multiple, so a tie goes up to `2^128`. -/
theorem overflow_iff_of_exp_eq (hexp : m.exp = 104) : (2 : ℚ) ^ 128 ≤ m.value ↔ (2 : ℚ) ^ 128 - 2 ^ 103 ≤ x := by
  have hvalue : m.value = m.mant * 2 ^ 104 := by rw [Magnitude.value, hexp]; rfl
  have hunit : (2 : ℚ) ^ m.exp / 2 = 2 ^ 103 := by rw [hexp]; norm_num
  have hnear := h.near
  have htie := h.even_of_tie
  rw [hunit, hvalue] at hnear htie
  rw [hvalue]
  obtain ⟨hlow, hhigh⟩ := abs_le.1 hnear
  constructor
  · intro _
    linarith
  · intro hx
    have hge : 2 ^ 24 - 1 ≤ m.mant := by
      have hge' : (2 : ℚ) ^ 24 ≤ m.mant + 1 := by linarith
      exact Nat.sub_le_of_le_add (by exact_mod_cast hge')
    have hne : 2 ^ 24 - 1 ≠ m.mant := by
      intro hodd
      have hmax : (m.mant : ℚ) = 2 ^ 24 - 1 := by rw [← hodd]; norm_num
      have hdist : |(m.mant : ℚ) * 2 ^ 104 - x| = 2 ^ 103 := by
        rw [abs_sub_comm, abs_of_nonneg (by linarith)]
        linarith
      have heven := htie hdist
      omega
    have hmant : (2 : ℚ) ^ 24 ≤ m.mant := by exact_mod_cast (show 2 ^ 24 ≤ m.mant by omega)
    linarith

/-- The result reaches `2^128` from half a unit below it on: with a unit below `2^104` neither it nor `x` comes near, and
with one above, both are beyond. -/
theorem overflow_iff : (2 : ℚ) ^ 128 ≤ m.value ↔ (2 : ℚ) ^ 128 - 2 ^ 103 ≤ x := by
  rcases lt_trichotomy m.exp 104 with hexp | hexp | hexp
  · have hx : x < 2 ^ (127 : ℤ) := h.lt_top.trans_le (zpow_le_zpow_right₀ one_le_two (by omega))
    have hv : m.value ≤ 2 ^ (24 : ℤ) * 2 ^ (103 : ℤ) := by
      rw [Magnitude.value]
      gcongr
      · exact_mod_cast h.mant_le
      · exact one_le_two
      · omega
    norm_num at hx hv
    constructor <;> intro _ <;> linarith
  · exact h.overflow_iff_of_exp_eq hexp
  · have hu : (2 : ℚ) ^ 128 ≤ 2 ^ (m.exp + 23) := by
      rw [← zpow_natCast]
      exact zpow_le_zpow_right₀ one_le_two (by omega)
    rcases h.unit with hmin | hzero | hx
    · omega
    · rw [h.value_eq_zero hzero, hzero]
      norm_num
    · rw [← m.binade_eq_multiple] at hu hx
      have hv := h.multiple_le_value hx
      constructor <;> intro _ <;> linarith

/-- The result is at most a unit away, whatever binade at or above that of `x` the unit is taken in. -/
theorem near_of_lt (hx : 0 ≤ x) {e : ℤ} (he : -149 ≤ e) (hlt : x < 2 ^ (e + 24)) : |m.value - x| ≤ 2 ^ e := by
  have hu : (0 : ℚ) < 2 ^ e := by positivity
  have hk : ⌊x / 2 ^ e⌋₊ < 2 ^ 24 := by
    rw [Nat.floor_lt (by positivity), div_lt_iff₀ hu]
    rw [zpow_add₀ two_ne_zero, mul_comm] at hlt
    exact_mod_cast hlt
  have hle : (⌊x / 2 ^ e⌋₊ : ℚ) * 2 ^ e ≤ x := (le_div_iff₀ hu).1 (Nat.floor_le (by positivity))
  have hgt : x < (⌊x / 2 ^ e⌋₊ + 1 : ℚ) * 2 ^ e := (div_lt_iff₀ hu).1 (Nat.lt_floor_add_one _)
  refine (h.nearest hk he).trans ?_
  rw [abs_le]
  constructor <;> linarith

/-- R147: away from every integer by more than a unit in the last place, the rounding does not change the integer part. -/
theorem floor_eq (hx : 0 ≤ x) (hfar : ∀ k : ℤ, (2 : ℚ) ^ max (Int.log 2 x - 23) (-149) < |x - k|) :
    ⌊m.value⌋ = ⌊x⌋ := by
  have hlt : x < 2 ^ (max (Int.log 2 x - 23) (-149) + 24) :=
    (Int.lt_zpow_succ_log_self one_lt_two x).trans_le (zpow_le_zpow_right₀ one_le_two (by omega))
  obtain ⟨hlow, hhigh⟩ := abs_le.1 (h.near_of_lt hx (le_max_right _ _) hlt)
  have hfloor := hfar ⌊x⌋
  have hceil := hfar (⌊x⌋ + 1)
  have hle := Int.floor_le x
  have hgt := Int.lt_floor_add_one x
  rw [abs_of_nonneg (by linarith)] at hfloor
  push_cast at hceil
  rw [abs_sub_comm, abs_of_nonneg (by linarith)] at hceil
  rw [Int.floor_eq_iff]
  constructor <;> linarith

end Rounding

theorem rne32_eq_none_iff (num : ℕ) {den : ℕ} (hden : 0 < den) :
    rne32 num den = none ↔ (2 : ℚ) ^ 128 - 2 ^ 103 ≤ (num : ℚ) / den := by
  obtain ⟨m, hm, heq⟩ := rne32_eq num hden
  rw [heq, ← hm.overflow_iff]
  simp

theorem rounding_of_rne32 {num den : ℕ} {m : Magnitude} (hden : 0 < den) (h : rne32 num den = some m) :
    Rounding ((num : ℚ) / den) m := by
  obtain ⟨m', hm', heq⟩ := rne32_eq num hden
  rw [heq] at h
  split at h <;> cases h
  exact hm'

/-- The product of two magnitudes is rounded from its exact value. -/
theorem mulRne32_eq_rne32 (x y : Magnitude) :
    ∃ num den : ℕ, 0 < den ∧ (num : ℚ) / den = x.value * y.value ∧ mulRne32 x y = rne32 num den := by
  exact ⟨_, _, by positivity, (Magnitude.value_eq_div _).symm.trans (x.value_mul y), rfl⟩

theorem mulRne32_eq_none_iff (x y : Magnitude) :
    mulRne32 x y = none ↔ (2 : ℚ) ^ 128 - 2 ^ 103 ≤ x.value * y.value := by
  obtain ⟨num, den, hden, hvalue, heq⟩ := mulRne32_eq_rne32 x y
  rw [heq, rne32_eq_none_iff num hden, hvalue]

theorem rounding_of_mulRne32 {x y q : Magnitude} (h : mulRne32 x y = some q) : Rounding (x.value * y.value) q := by
  obtain ⟨num, den, hden, hvalue, heq⟩ := mulRne32_eq_rne32 x y
  rw [← hvalue]
  exact rounding_of_rne32 hden (heq ▸ h)

/-- Settles O35: every result of RNE32 is a rounding of the quotient. -/
theorem roundingIsToTheNearestValue : Obligations.RoundingIsToTheNearestValue := by
  refine ⟨fun num den hden => rne32_eq_none_iff num hden, fun num den m hden h => ?_, mulRne32_eq_rne32⟩
  have hm := rounding_of_rne32 hden h
  exact ⟨hm.mant_le, hm.exp_ge, fun k q => hm.nearest, fun k => hm.even_of_eq⟩

/-! The steps of FSCALE -/

/-- R148: the integer part is the floor of the magnitude. -/
theorem truncMagnitude_eq_floor (q : Magnitude) : (truncMagnitude q : ℤ) = ⌊q.value⌋ := by
  rw [q.value_eq_div, Rat.floor_natCast_div_natCast]
  rfl

theorem signedTrunc_eq_floor (neg : Bool) (q : Magnitude) :
    signedTrunc neg q = if neg then -⌊q.value⌋ else ⌊q.value⌋ := by
  rw [signedTrunc, truncMagnitude_eq_floor]

theorem narrowS32_of_out {v : ℤ} (h : v < -2 ^ 31 ∨ 2 ^ 31 - 1 < v) : narrowS32 v = none :=
  if_neg (by omega)

theorem narrowS32_of_in {v : ℤ} (hlow : -2 ^ 31 ≤ v) (hhigh : v ≤ 2 ^ 31 - 1) :
    ∃ w, narrowS32 v = some w ∧ w.toInt = v :=
  ⟨_, if_pos ⟨hlow, hhigh⟩, BitVec.toInt_ofInt_eq_self (by decide) hlow (by omega)⟩

theorem fscaleDefault_of_magnitude_none {a : Word} (h : floatMagnitude a = none) (b : Byte) :
    fscaleDefault a b = none := by
  simp [fscaleDefault, h]

theorem fscaleDefault_of_scale_none (a : Word) {b : Byte} (h : rne32 (10 ^ b.toNat) 1 = none) :
    fscaleDefault a b = none := by
  cases hx : floatMagnitude a with
  | none => exact fscaleDefault_of_magnitude_none hx b
  | some x => simp [fscaleDefault, hx, operandPlaces, h]

theorem fscaleDefault_of_scale {a : Word} {b : Byte} {x scale : Magnitude} (hx : floatMagnitude a = some x)
    (hs : rne32 (10 ^ b.toNat) 1 = some scale) :
    fscaleDefault a b = (mulRne32 scale x).bind fun q => narrowS32 (signedTrunc (floatSign a) q) := by
  simp [fscaleDefault, hx, operandPlaces, hs]

/-- R89: an exponent field of all ones is a NaN or an infinity. -/
theorem floatMagnitude_of_ones {a : Word} (h : a.extractLsb 30 23 = 0xFF#8) : floatMagnitude a = none := by
  have hexp : floatExponent a = 255 := congrArg BitVec.toNat h
  simp [floatMagnitude, hexp]

/-- R89: with every bit but the sign 0, the operand is a zero. -/
theorem floatMagnitude_of_zeros {a : Word} (h : a.extractLsb 30 0 = 0#31) :
    floatMagnitude a = some { mant := 0, exp := -149 } := by
  have hlow : a.toNat % 2 ^ 31 = 0 := congrArg BitVec.toNat h
  have hexp : floatExponent a = 0 := by
    rw [floatExponent, BitVec.extractLsb_toNat]
    omega
  have hfrac : floatFraction a = 0 := by
    rw [floatFraction, BitVec.extractLsb_toNat, Nat.shiftRight_zero]
    omega
  simp [floatMagnitude, hexp, hfrac]

/-- R162: `10^39` is the first power of ten that overflows binary32. -/
theorem rne32_ten_pow_eq_none_iff (n : ℕ) : rne32 (10 ^ n) 1 = none ↔ 39 ≤ n := by
  rw [rne32_eq_none_iff _ Nat.one_pos]
  push_cast
  rw [div_one]
  constructor
  · intro h
    by_contra hn
    have hle : (10 : ℚ) ^ n ≤ 10 ^ 38 := pow_le_pow_right₀ (by norm_num) (by omega)
    norm_num at h hle
    linarith
  · intro hn
    have hle : (10 : ℚ) ^ 39 ≤ 10 ^ n := pow_le_pow_right₀ (by norm_num) hn
    norm_num at hle ⊢
    linarith

theorem exists_scale {n : ℕ} (h : n ≤ 38) : ∃ scale, rne32 (10 ^ n) 1 = some scale :=
  Option.ne_none_iff_exists'.1 (by rw [Ne, rne32_ten_pow_eq_none_iff]; omega)

/-- R147: a zero stays zero. -/
theorem fscaleDefault_of_zero {a : Word} {b : Byte} (hb : b.toNat ≤ 38) (h : a.extractLsb 30 0 = 0#31) :
    fscaleDefault a b = some 0 := by
  obtain ⟨scale, hs⟩ := exists_scale hb
  have hzero : scale.value * (Magnitude.mk 0 (-149)).value = 0 := by simp [Magnitude.value]
  obtain ⟨q, hq⟩ : ∃ q, mulRne32 scale ⟨0, -149⟩ = some q :=
    Option.ne_none_iff_exists'.1 (by rw [Ne, mulRne32_eq_none_iff, hzero]; norm_num)
  have hvalue := (rounding_of_mulRne32 hq).value_eq_zero hzero
  rw [fscaleDefault_of_scale (floatMagnitude_of_zeros h) hs, hq, Option.bind_some, signedTrunc_eq_floor, hvalue,
    Int.floor_zero, neg_zero, ite_self]
  rfl

/-- Settles O34: FSCALE's four ways to no value, and its value otherwise. -/
theorem fscaleFaultsOnNonFiniteOperands : Obligations.FscaleFaultsOnNonFiniteOperands := by
  intro a b
  refine ⟨fun h => fscaleDefault_of_magnitude_none (floatMagnitude_of_ones h) b,
    fun hb => fscaleDefault_of_scale_none a ((rne32_ten_pow_eq_none_iff _).2 hb), fscaleDefault_of_zero,
    fun x scale hx hs => ?_⟩
  rw [fscaleDefault_of_scale hx hs]
  refine ⟨fun hq => by rw [hq, Option.bind_none], fun q hq => ?_⟩
  intro whole v
  have hv : signedTrunc (floatSign a) q = v := signedTrunc_eq_floor _ q
  rw [hq, Option.bind_some, hv]
  exact ⟨narrowS32_of_out, narrowS32_of_in⟩

/-- R147: up to `10^10`, a power of ten is a binary32 value. -/
theorem scale_value {n : ℕ} {scale : Magnitude} (hn : n ≤ 10) (h : rne32 (10 ^ n) 1 = some scale) :
    scale.value = 10 ^ n := by
  have hr := rounding_of_rne32 Nat.one_pos h
  have hk : 5 ^ n < 2 ^ 24 := (Nat.pow_le_pow_right (by decide) hn).trans_lt (by norm_num)
  have hnear := hr.nearest hk (q := n) (by omega)
  have hexact : ((5 ^ n : ℕ) : ℚ) * 2 ^ (n : ℤ) - ((10 ^ n : ℕ) : ℚ) / (1 : ℕ) = 0 := by
    push_cast
    rw [zpow_natCast, ← mul_pow]
    norm_num
  rw [hexact, abs_zero] at hnear
  simpa [sub_eq_zero] using hnear

/-- R147: where `10^dp` is exact and the product far from every integer, the one rounding left does not reach an integer. -/
theorem fscaleDefault_eq_narrow_floor {a : Word} {b : Byte} {m : Magnitude} (hb : b.toNat ≤ 10)
    (hm : floatMagnitude a = some m) (hbound : m.value * 10 ^ b.toNat ≤ 2 ^ 31)
    (hfar : ∀ k : ℤ, (2 : ℚ) ^ max (Int.log 2 (m.value * 10 ^ b.toNat) - 23) (-149) < |m.value * 10 ^ b.toNat - k|) :
    fscaleDefault a b =
      narrowS32 (if floatSign a then -⌊m.value * 10 ^ b.toNat⌋ else ⌊m.value * 10 ^ b.toNat⌋) := by
  obtain ⟨scale, hs⟩ := exists_scale (n := b.toNat) (by omega)
  have hsize : scale.value * m.value = m.value * 10 ^ b.toNat := by rw [scale_value hb hs, mul_comm]
  have hnonneg : 0 ≤ m.value * 10 ^ b.toNat := by unfold Magnitude.value; positivity
  obtain ⟨q, hq⟩ : ∃ q, mulRne32 scale m = some q := by
    refine Option.ne_none_iff_exists'.1 ?_
    rw [Ne, mulRne32_eq_none_iff, hsize, not_le]
    exact hbound.trans_lt (by norm_num)
  have hround := rounding_of_mulRne32 hq
  rw [hsize] at hround
  rw [fscaleDefault_of_scale hm hs, hq, Option.bind_some, signedTrunc_eq_floor, hround.floor_eq hnonneg hfar]

/-- Settles O36: truncation is the ceiling of a negative product and the floor of another, and both stay in range. -/
theorem fscaleTruncatesTheExactProduct : Obligations.FscaleTruncatesTheExactProduct := by
  intro a b m hb hm size v hlow hhigh hfar
  have hnarrow : size ≤ 2 ^ 31 → (∀ k : ℤ, (2 : ℚ) ^ max (Int.log 2 size - 23) (-149) < |size - k|) →
      fscaleDefault a b = narrowS32 (if floatSign a then -⌊size⌋ else ⌊size⌋) := fscaleDefault_eq_narrow_floor hb hm
  cases hneg : floatSign a with
  | true =>
    have hv : v = -size := if_pos hneg
    have hfar' (k : ℤ) : (2 : ℚ) ^ max (Int.log 2 size - 23) (-149) < |size - k| := by
      have h := hfar (-k)
      rwa [hv, Int.cast_neg, neg_sub_neg, abs_sub_comm] at h
    rw [hnarrow (by linarith) hfar', hneg, if_pos rfl, if_pos rfl, ← Int.ceil_neg, ← hv]
    exact narrowS32_of_in (by exact_mod_cast hlow.trans (Int.le_ceil v)) (Int.ceil_le.2 (by exact_mod_cast hhigh))
  | false =>
    have hv : v = size := if_neg (by simp [hneg])
    rw [hnarrow (by linarith) (hv ▸ hfar), hneg, if_neg (by simp), if_neg (by simp), ← hv]
    exact narrowS32_of_in (Int.le_floor.2 (by exact_mod_cast hlow)) (by exact_mod_cast (Int.floor_le v).trans hhigh)

end Sys2Proof.Machine
end

section
/-! STEP, its timers and its runs, and the digits that stay enabled: family 42_loop_step.md. -/

namespace Sys2Proof.Machine

open Sys2Proof Sys2Proof.Safety

/-! At most one digit is enabled (R189) -/

/-- Later events act on what the trace before them enabled. -/
theorem digitEnabled_append (trace es : List Event) (i : Fin nDigits) :
    digitEnabled (trace ++ es) i = es.foldl (enabledAfter i) (digitEnabled trace i) :=
  List.foldl_append

/-- R230: INIT's events leave no digit enabled. -/
theorem digitEnabled_initWith (p : Params) (p0 p1 p2 p3 p4 p5 : Byte) (s : State) (i : Fin nDigits) :
    digitEnabled (initWith p p0 p1 p2 p3 p4 p5 s).trace i = false := by
  rw [initWith_eq, digitEnabled_append]
  fin_cases i <;> rfl

/-- R183: a switch enables the next digit, disables the previous one, and leaves the others as they were. -/
theorem digitEnabled_switchEvents (s : State) (i : Fin nDigits) :
    digitEnabled (s.trace ++ switchEvents s) i =
      if s.muxIdx + 1 = i then true else if s.muxPrev = i then false else digitEnabled s.trace i := by
  rw [digitEnabled_append]
  rfl

/-- R252: a report enables and disables nothing. -/
theorem atMostOneEnabled_report {s : State} (hs : AtMostOneEnabled s) (kind : DiagKind) (info : Nat) :
    AtMostOneEnabled { s with trace := s.trace ++ [.diag kind info] } :=
  fun i hi => hs i ((digitEnabled_concat s.trace (.diag kind info) i).symm.trans hi)

theorem atMostOneEnabled_initWith (p : Params) (p0 p1 p2 p3 p4 p5 : Byte) (s : State) :
    AtMostOneEnabled (initWith p p0 p1 p2 p3 p4 p5 s) :=
  fun i hi => absurd hi (by simp [digitEnabled_initWith])

/-- R183: the digit that a switch disables is the only one that can be enabled, and the one it enables is the new `mux_prev`. -/
theorem atMostOneEnabled_muxSwitch (p : Params) (now : Word) {s : State} (hc : s.configured = true)
    (hs : AtMostOneEnabled s) : AtMostOneEnabled (muxSwitch p now s) := by
  cases h : due now s.muxTs p.refreshMs with
  | true =>
    rw [muxSwitch_of_due p now h]
    intro i hi
    dsimp only at hi ⊢
    rw [digitEnabled_switchEvents] at hi
    refine ⟨hc, ?_⟩
    split at hi
    · exact Eq.symm ‹_›
    · split at hi
      · cases hi
      · obtain ⟨_, hprev⟩ := hs i hi
        exact absurd hprev.symm ‹_›
  | false => rwa [muxSwitch_of_not_due p now h]

/-- R116: ENCODE emits a report at most. -/
theorem atMostOneEnabled_encodeWith (p : Params) (b : Byte) {s : State} (hs : AtMostOneEnabled s) :
    AtMostOneEnabled (encodeWith p b s) := by
  rw [encodeWith_eq]
  cases (rom p b).ok with
  | true => simpa using hs
  | false => exact atMostOneEnabled_report hs .unsupportedChar b.toNat

/-- R189: every operation that answers a next state keeps at most one digit enabled; only INIT and the switch of STEP emit
digit events. -/
theorem atMostOneEnabled_exec {i : Instr} {s t : State} (hs : AtMostOneEnabled s) (h : exec i s = .next t) :
    AtMostOneEnabled t := by
  cases i with
  | init p0 p1 p2 p3 p4 p5 => rw [exec_init_next h]; exact atMostOneEnabled_initWith _ _ _ _ _ _ _ s
  | step =>
    obtain ⟨hc, rfl⟩ := exec_step_next h
    rw [overlayOrScroll_writes]
    exact atMostOneEnabled_muxSwitch _ _ hc hs
  | showi a =>
    obtain ⟨_, rfl⟩ := exec_showi_next h
    obtain ⟨hp, hl, _⟩ := showText_operand_fits a
    rw [showText_writes _ hp hl]
    exact hs
  | showf a b =>
    obtain ⟨_, v, _, rfl⟩ := exec_showf_next h
    obtain ⟨hp, hl, _⟩ := showText_operand_fits v
    rw [showText_writes _ hp hl]
    exact hs
  | showh a =>
    obtain ⟨_, rfl⟩ := exec_showh_next h
    obtain ⟨_, _, hp, hl⟩ := showText_operand_fits a
    rw [showText_writes _ hp hl]
    exact hs
  | showrsv a b => obtain ⟨_, rfl⟩ := exec_showrsv_next h; exact atMostOneEnabled_report hs .unknownSelector 3
  | showerr => obtain ⟨_, rfl⟩ := exec_showerr_next h; exact hs
  | encode b => rw [exec_encode_next h]; exact atMostOneEnabled_encodeWith _ b hs
  | adddp b => rw [exec_adddp_next h]; exact hs

/-- Settles O52: an idle step emits nothing, an undefined opcode a report, and every operation keeps the invariant. -/
theorem everyStepKeepsAtMostOneDigitEnabled : Obligations.EveryStepKeepsAtMostOneDigitEnabled := by
  intro s t hs h
  obtain ⟨_, rfl⟩ | ⟨x, rest, i, _, _, _, hi⟩ | ⟨x, rest, op, _, _, _, hu⟩ := step_cases h
  · exact hs
  · exact atMostOneEnabled_exec (s := issue x.now rest s) hs hi
  · rw [execUndefined_eq] at hu
    cases hu
    exact atMostOneEnabled_report (s := issue x.now rest s) hs .undefinedOpcode op.toNat

/-! The timers -/

/-- Settles O37: subtraction of words is subtraction modulo 2^32, and their order is that of their values. -/
theorem timerChecksUseModularElapsedTime : Obligations.TimerChecksUseModularElapsedTime := by
  intro now ts interval
  refine ⟨?_, (due_iff now ts interval).trans BitVec.le_def⟩
  rw [elapsed, BitVec.toNat_sub]
  omega

/-! The switch check, and what it leaves alone -/

section AfterSwitch

variable (refresh now : Word) (s : State)

theorem muxSwitch_eq_afterSwitch (p : Params) : muxSwitch p now s = afterSwitch p.refreshMs now s := by
  unfold afterSwitch
  split
  · exact muxSwitch_of_due p now ((due_iff _ _ _).2 ‹_›)
  · exact muxSwitch_of_not_due p now ((due_eq_false_iff _ _ _).2 ‹_›)

/-- R183: the switch check writes nothing but the multiplex fields and the output traces. -/
theorem afterSwitch_writes :
    afterSwitch refresh now s =
      { s with
        muxIdx := (afterSwitch refresh now s).muxIdx
        muxPrev := (afterSwitch refresh now s).muxPrev
        muxTs := (afterSwitch refresh now s).muxTs
        trace := (afterSwitch refresh now s).trace
        pinTrace := (afterSwitch refresh now s).pinTrace } := by
  unfold afterSwitch
  split <;> rfl

@[simp] theorem afterSwitch_frameBak : (afterSwitch refresh now s).frameBak = s.frameBak := by rw [afterSwitch_writes]
@[simp] theorem afterSwitch_symBuf : (afterSwitch refresh now s).symBuf = s.symBuf := by rw [afterSwitch_writes]
@[simp] theorem afterSwitch_scrollActive : (afterSwitch refresh now s).scrollActive = s.scrollActive := by rw [afterSwitch_writes]
@[simp] theorem afterSwitch_scrollFrames : (afterSwitch refresh now s).scrollFrames = s.scrollFrames := by rw [afterSwitch_writes]
@[simp] theorem afterSwitch_scrollIdx : (afterSwitch refresh now s).scrollIdx = s.scrollIdx := by rw [afterSwitch_writes]
@[simp] theorem afterSwitch_scrollTs : (afterSwitch refresh now s).scrollTs = s.scrollTs := by rw [afterSwitch_writes]
@[simp] theorem afterSwitch_errActive : (afterSwitch refresh now s).errActive = s.errActive := by rw [afterSwitch_writes]
@[simp] theorem afterSwitch_errTs : (afterSwitch refresh now s).errTs = s.errTs := by rw [afterSwitch_writes]

end AfterSwitch

/-! One STEP -/

/-- R185: the restore reads nothing that a switch before it wrote. -/
theorem errorExpiry_afterSwitch (p : Params) (refresh now : Word) (s : State) :
    errorExpiry p now (afterSwitch refresh now s) =
      if p.errorMs ≤ now - s.errTs then
        { afterSwitch refresh now s with frame := s.frameBak, bakValid := false, errActive := false }
      else afterSwitch refresh now s := by
  split
  · rw [errorExpiry_of_due p now ((due_iff _ _ _).2 (by rwa [afterSwitch_errTs]))]
    simp
  · exact errorExpiry_of_not_due p now ((due_eq_false_iff _ _ _).2 (by rwa [afterSwitch_errTs]))

/-- R186: the advance reads nothing that a switch before it wrote. -/
theorem scrollAdvance_afterSwitch (p : Params) (refresh now : Word) (s : State) :
    scrollAdvance p now (afterSwitch refresh now s) =
      if p.scrollMs ≤ now - s.scrollTs then
        { afterSwitch refresh now s with
          frame := scrollWindow s.symBuf s.scrollIdx.toNat
          scrollTs := now
          scrollIdx := nextScrollIdx s.scrollIdx s.scrollFrames }
      else afterSwitch refresh now s := by
  split
  · rw [scrollAdvance_of_due p now ((due_iff _ _ _).2 (by rwa [afterSwitch_scrollTs]))]
    simp
  · exact scrollAdvance_of_not_due p now ((due_eq_false_iff _ _ _).2 (by rwa [afterSwitch_scrollTs]))

/-- R180, R181: STEP in a configured state is the switch check and then the second part, at one clock value. -/
theorem stepWith_eq (p : Params) {s : State} (hc : s.configured = true) :
    stepWith p s = .next (overlayOrScroll p s.clock (afterSwitch p.refreshMs s.clock s)) := by
  rw [stepWith, whenConfigured_of_true hc, ← muxSwitch_eq_afterSwitch]
  rfl

/-- Settles O41: the switch leaves the overlay and scroll fields alone, so the second part decides as it would before it. -/
theorem stepForEveryInterval : Obligations.StepForEveryInterval := by
  intro p s hc
  rw [stepWith_eq p hc]
  cases he : s.errActive with
  | true =>
    rw [overlayOrScroll_of_error _ _ (by simpa using he), errorExpiry_afterSwitch]
    simp
  | false =>
    cases ha : s.scrollActive with
    | true =>
      rw [overlayOrScroll_of_scroll _ _ (by simpa using he) (by simpa using ha), scrollAdvance_afterSwitch]
      simp [nextScrollIdx]
    | false =>
      rw [overlayOrScroll_of_neither _ _ (by simpa using he) (by simpa using ha)]
      simp

/-- Settles O38: the first part of STEP at this hardware's refresh interval. -/
theorem stepSwitchesTheDigit : Obligations.StepSwitchesTheDigit := by
  intro s hc he ha
  refine (stepForEveryInterval hardware s hc).trans ?_
  simp [he, ha, hardware]

/-- Settles O39: the overlay's case at this hardware's error duration. -/
theorem stepExpiresTheOverlay : Obligations.StepExpiresTheOverlay := by
  intro s hc he
  have hstep : exec .step s = _ := stepForEveryInterval hardware s hc
  simp only [he, if_true] at hstep
  exact ⟨fun hd => hstep.trans (congrArg _ (if_pos hd)), fun hd => hstep.trans (congrArg _ (if_neg hd))⟩

/-- R160: the four entries of a window. -/
theorem scrollWindow_eq (symBuf : Vector Seg bufCap) (k : Nat) :
    scrollWindow symBuf k =
      #v[memRead symBuf k, memRead symBuf (k + 1), memRead symBuf (k + 2), memRead symBuf (k + 3)] := rfl

/-- Settles O40: the scroll's case at this hardware's scroll interval. -/
theorem stepAdvancesTheScroll : Obligations.StepAdvancesTheScroll := by
  intro s hc he ha
  have hstep : exec .step s = _ := stepForEveryInterval hardware s hc
  simp only [he, ha, Bool.false_eq_true, if_false, true_and] at hstep
  rw [← scrollWindow_eq]
  exact ⟨fun hd => hstep.trans (congrArg _ (if_pos hd)), fun hd => hstep.trans (congrArg _ (if_neg hd))⟩

/-! Runs of STEPs that come the refresh interval apart -/

/-- R183, R188: a STEP whose switch check passes moves to the next digit with three events. -/
theorem exec_step_of_refresh_due {s : State} (hc : s.configured = true) (hd : due s.clock s.muxTs 4 = true) :
    ∃ t, exec .step s = .next t ∧ t.configured = true ∧ t.muxTs = s.clock ∧ t.muxIdx = s.muxIdx + 1 ∧
      t.trace.length = s.trace.length + 3 := by
  refine ⟨_, execStep_eq hc, ?_⟩
  rw [overlayOrScroll_writes, muxSwitch_of_due hardware s.clock hd]
  exact ⟨hc, rfl, rfl, by simp [switchEvents]⟩

/-- Settles O42, by induction on the clock values: each STEP advances the index by one modulo 4. -/
theorem digitsAreVisitedInOrder : Obligations.DigitsAreVisitedInOrder := by
  intro s times
  induction times generalizing s with
  | nil =>
    intro _ _
    exact ⟨_, runProgram_nil s, (Nat.mod_eq_of_lt s.muxIdx.isLt).symm, rfl⟩
  | cons now rest ih =>
    rintro hc ⟨hdue, hrest⟩
    obtain ⟨t, hstep, htc, hts, hidx, htrace⟩ :=
      exec_step_of_refresh_due (s := issued s now (rest.map fun now => (.step, now))) hc hdue
    obtain ⟨u, hrun, huidx, hutrace⟩ := ih t htc (hts ▸ hrest)
    refine ⟨u, (runProgram_cons hstep).trans hrun, ?_, ?_⟩
    · have hnext : t.muxIdx.val = (s.muxIdx.val + 1) % 4 := by rw [hidx]; exact Fin.val_add _ _
      rw [huidx, hnext, Nat.mod_add_mod, List.length_cons]
      congr 1
      omega
    · have hnext : t.trace.length = s.trace.length + 3 := htrace
      rw [hutrace, hnext, List.length_cons]
      omega

/-! Runs of STEPs that come the scroll interval apart -/

/-- R186: below the frame count, the next index is the increment modulo the count. -/
theorem toNat_nextScrollIdx {idx frames : Byte} (h : idx.toNat < frames.toNat) :
    (nextScrollIdx idx frames).toNat = (idx.toNat + 1) % frames.toNat := by
  have hinc : (idx + 1).toNat = idx.toNat + 1 := by bv_omega
  unfold nextScrollIdx
  split
  · rename_i hwrap
    rw [← hinc, hwrap, Nat.mod_self]
    rfl
  · rename_i hne
    have : (idx + 1).toNat ≠ frames.toNat := fun h => hne (BitVec.eq_of_toNat_eq h)
    rw [hinc, Nat.mod_eq_of_lt (by omega)]

/-- A state that scrolls through given codes in a given number of windows, with no overlay over it. -/
structure ScrollsThrough (symBuf : Vector Seg bufCap) (frames : Byte) (s : State) : Prop where
  configured : s.configured = true
  scrolling : s.scrollActive = true
  noOverlay : s.errActive = false
  symBuf_eq : s.symBuf = symBuf
  frames_eq : s.scrollFrames = frames
  idx_lt : s.scrollIdx.toNat < frames.toNat

/-- R186: a STEP whose advance check passes shows the window at the index, and moves the index on. -/
theorem ScrollsThrough.exec_step {symBuf : Vector Seg bufCap} {frames : Byte} {s : State}
    (hs : ScrollsThrough symBuf frames s) (hd : due s.clock s.scrollTs 300 = true) :
    ∃ t, exec .step s = .next t ∧ ScrollsThrough symBuf frames t ∧ t.scrollTs = s.clock ∧
      t.frame = scrollWindow symBuf s.scrollIdx.toNat ∧ t.scrollIdx.toNat = (s.scrollIdx.toNat + 1) % frames.toNat := by
  obtain ⟨hc, ha, he, rfl, rfl, hidx⟩ := hs
  have hnext := toNat_nextScrollIdx hidx
  obtain ⟨hadvance, _⟩ := stepAdvancesTheScroll s hc he ha
  refine ⟨_, hadvance ((due_iff _ _ _).1 hd), ?_, rfl, rfl, hnext⟩
  rw [afterSwitch_writes]
  exact ⟨hc, ha, he, rfl, rfl, nextScrollIdx_lt hidx⟩

/-- R186, E10: a run of STEPs that all advance the scroll, by induction on the clock values. -/
theorem ScrollsThrough.run {symBuf : Vector Seg bufCap} {frames : Byte} {s : State}
    (hs : ScrollsThrough symBuf frames s) {times : List Word} (hd : spacedBy 300 s.scrollTs times) (hne : times ≠ []) :
    ∃ t, runProgram s (times.map fun now => (.step, now)) = .next t ∧ ScrollsThrough symBuf frames t ∧
      t.frame = scrollWindow symBuf ((s.scrollIdx.toNat + (times.length - 1)) % frames.toNat) ∧
      t.scrollIdx.toNat = (s.scrollIdx.toNat + times.length) % frames.toNat := by
  induction times generalizing s with
  | nil => exact absurd rfl hne
  | cons now rest ih =>
    obtain ⟨hdue, hrest⟩ := hd
    have hissued : ScrollsThrough symBuf frames (issued s now (rest.map fun now => (.step, now))) := { hs with }
    obtain ⟨t, hstep, ht, hts, hframe, hidx⟩ := hissued.exec_step hdue
    have hidx : t.scrollIdx.toNat = (s.scrollIdx.toNat + 1) % frames.toNat := hidx
    cases rest with
    | nil =>
      refine ⟨_, (runProgram_cons hstep).trans (runProgram_nil t), { ht with }, hframe.trans ?_, hidx⟩
      exact congrArg (scrollWindow symBuf) (Nat.mod_eq_of_lt hs.idx_lt).symm
    | cons now' rest =>
      obtain ⟨u, hrun, hu, huframe, huidx⟩ := ih ht (hts ▸ hrest) (List.cons_ne_nil _ _)
      refine ⟨u, (runProgram_cons hstep).trans hrun, hu, ?_, ?_⟩
      · rw [huframe, hidx, Nat.mod_add_mod, Nat.add_assoc, Nat.add_comm 1]
        rfl
      · rw [huidx, hidx, Nat.mod_add_mod, Nat.add_assoc, Nat.add_comm 1]
        rfl

/-- Settles O43: the run keeps the sequence and the frame count. -/
theorem scrollCyclesThroughItsWindows : Obligations.ScrollCyclesThroughItsWindows := by
  intro s times hc ha he hidx hd hne
  have hs : ScrollsThrough s.symBuf s.scrollFrames s := ⟨hc, ha, he, rfl, rfl, hidx⟩
  obtain ⟨t, hrun, ht, hframe, htidx⟩ := hs.run hd hne
  exact ⟨t, hrun, hframe, htidx, ht.scrolling, ht.symBuf_eq, ht.frames_eq⟩

/-! Runs under an overlay -/

/-- The scroll fields and the sequence of `t` are those of `s`. -/
structure SameScroll (s t : State) : Prop where
  scrollActive_eq : t.scrollActive = s.scrollActive
  scrollIdx_eq : t.scrollIdx = s.scrollIdx
  scrollTs_eq : t.scrollTs = s.scrollTs
  scrollFrames_eq : t.scrollFrames = s.scrollFrames
  symBuf_eq : t.symBuf = s.symBuf

/-- `t` shows the overlay that a SHOWERR at a clock value put over `s` (R210, R213). -/
structure Overlays (s : State) (start : Word) (t : State) : Prop extends SameScroll s t where
  configured : t.configured = true
  active : t.errActive = true
  errTs_eq : t.errTs = start
  frame_eq : t.frame = errPattern hardware
  frameBak_eq : t.frameBak = s.frame

/-- R210: SHOWERR saves the frame and leaves the scroll alone. -/
theorem exec_showerr_overlays {s : State} (hc : s.configured = true) :
    ∃ t, exec .showerr s = .next t ∧ Overlays s s.clock t :=
  ⟨beginOverlay hardware s.clock s, whenConfigured_of_true hc _, ⟨rfl, rfl, rfl, rfl, rfl⟩, hc, rfl, rfl, rfl, rfl⟩

theorem SameScroll.afterSwitch {s t : State} (h : SameScroll s t) (refresh now : Word) :
    SameScroll s (afterSwitch refresh now t) := by
  rw [afterSwitch_writes]
  exact { h with }

/-- R184, R185: a STEP before the duration has passed keeps the overlay. -/
theorem Overlays.exec_step_early {s t : State} {start : Word} (h : Overlays s start t)
    (hd : ¬ 1000#32 ≤ t.clock - start) : ∃ u, exec .step t = .next u ∧ Overlays s start u := by
  obtain ⟨_, hearly⟩ := stepExpiresTheOverlay t h.configured h.active
  refine ⟨_, hearly (by rwa [h.errTs_eq]), ?_⟩
  rw [afterSwitch_writes]
  exact { h with }

/-- R185: any number of STEPs before the duration has passed keep the overlay, by induction on their clock values. -/
theorem Overlays.run {s t : State} {start : Word} (h : Overlays s start t) {times : List Word}
    (hd : ∀ now ∈ times, ¬ 1000#32 ≤ now - start) :
    ∃ u, runProgram t (times.map fun now => (.step, now)) = .next u ∧ Overlays s start u := by
  induction times generalizing t with
  | nil => exact ⟨_, runProgram_nil t, { h with }⟩
  | cons now rest ih =>
    obtain ⟨hnow, hrest⟩ := List.forall_mem_cons.1 hd
    have hissued : Overlays s start (issued t now (rest.map fun now => (.step, now))) :=
      { h with }
    obtain ⟨t', hstep, ht'⟩ := hissued.exec_step_early hnow
    obtain ⟨u, hrun, hu⟩ := ih ht' hrest
    exact ⟨u, (runProgram_cons hstep).trans hrun, hu⟩

/-- R185, R213: a STEP at or after the duration restores the frame and leaves the scroll as it was. -/
theorem Overlays.exec_step_late {s t : State} {start : Word} (h : Overlays s start t)
    (hd : 1000#32 ≤ t.clock - start) :
    ∃ u, exec .step t = .next u ∧ u.frame = s.frame ∧ u.errActive = false ∧ u.bakValid = false ∧ SameScroll s u := by
  obtain ⟨hlate, _⟩ := stepExpiresTheOverlay t h.configured h.active
  exact ⟨_, hlate (by rwa [h.errTs_eq]), h.frameBak_eq, rfl, rfl, { h.toSameScroll.afterSwitch 4 t.clock with }⟩

/-- Settles O46: SHOWERR, the early STEPs, and the STEP that restores. -/
theorem overlayRestoresTheFrameAfterItsDuration : Obligations.OverlayRestoresTheFrameAfterItsDuration := by
  intro s start stop times hc hearly hlate
  obtain ⟨t₀, hshowerr, h₀⟩ :=
    exec_showerr_overlays (s := issued s start (times.map fun now => (.step, now))) hc
  obtain ⟨t, hrun, ht⟩ := h₀.run hearly
  have hissued : Overlays s start (issued t stop []) := { ht with }
  obtain ⟨u, hstep, hframe, hactive, hvalid, hscroll⟩ := hissued.exec_step_late hlate
  refine ⟨t, _, (runProgram_cons hshowerr).trans hrun, ht.frame_eq.trans errPattern_hardware, ht.active,
    (runProgram_cons hstep).trans (runProgram_nil u), hframe, hactive, hvalid, ?_⟩
  obtain ⟨hsactive, hsidx, hsts, hsframes, hsym⟩ := hscroll
  exact ⟨hsactive, hsidx, hsts, hsframes, hsym⟩

end Sys2Proof.Machine
end

section
/-! SHOWERR and the start of the overlay: family 43_error_overlay.md. -/

namespace Sys2Proof.Machine

open Sys2Proof Sys2Proof.Safety

/-! SHOWERR -/

theorem decode_of_op_showerr {c : Command} (h : c.op = 0x20#8) : decode c = .instr .showerr :=
  (decode_eq_instr_iff c _).2 ⟨h, nofun, nofun, nofun⟩

/-- R210: SHOWERR in a configured state begins the overlay, whether or not one is active. -/
theorem exec_showerr {s : State} (hc : s.configured = true) :
    exec .showerr s = .next (beginOverlay hardware s.clock s) :=
  whenConfigured_of_true hc _

/-- Settles O44: the configured check, then the one next state of `beginOverlay_eq`. -/
theorem showErrorBeginsTheOverlay : Obligations.ShowErrorBeginsTheOverlay := by
  refine ⟨fun c => decode_of_op_showerr, fun s => ⟨fun hc => whenConfigured_of_false hc _, fun hc => ?_⟩⟩
  rw [exec_showerr hc, beginOverlay_eq, errPattern_hardware]

/-! Two SHOWERRs in a row -/

/-- Settles O45: the second SHOWERR saves the frame that the first one left, the "Err " pattern, and the expiry restores it. -/
theorem secondShowErrorLosesTheContent : Obligations.SecondShowErrorLosesTheContent := by
  intro s t0 t1 t2 hc hlate
  obtain ⟨s₁, hfirst, h₁⟩ := exec_showerr_overlays (s := issued s t0 [(.showerr, t1), (.step, t2)]) hc
  obtain ⟨s₂, hsecond, h₂⟩ := exec_showerr_overlays (s := issued s₁ t1 [(.step, t2)]) h₁.configured
  have hissued : Overlays (issued s₁ t1 [(.step, t2)]) t1 (issued s₂ t2 []) := { h₂ with }
  obtain ⟨u, hstep, hframe, hactive, hvalid, _⟩ := hissued.exec_step_late hlate
  have hrun := (runProgram_cons hfirst).trans ((runProgram_cons hsecond).trans (runProgram_cons hstep))
  have herr : u.frame = errPattern hardware := hframe.trans h₁.frame_eq
  exact ⟨_, hrun.trans (runProgram_nil u), herr.trans errPattern_hardware, hactive, hvalid⟩

/-! What starts an overlay -/

/-- R184: a STEP with no overlay starts none; at most it advances the scroll. -/
theorem exec_step_noOverlay {s t : State} (he : s.errActive = false) (h : exec .step s = .next t) :
    t.errActive = false := by
  obtain ⟨hc, _⟩ := exec_step_next h
  have hstep : exec .step s = _ := stepForEveryInterval hardware s hc
  simp only [he, Bool.false_eq_true, if_false] at hstep
  cases hstep.symm.trans h
  split <;> exact (afterSwitch_errActive _ _ s).trans he

/-- R165: the SHOW group neither starts nor ends an overlay. -/
theorem exec_show_errActive {i : Instr} {s t : State} (hi : i.format = .V ∨ i.format = .VF) (h : exec i s = .next t) :
    t.errActive = s.errActive := by
  obtain ⟨⟨hactive, _⟩, _⟩ := overlayFree_exec hi h
  exact hactive

/-- R214: no operation but SHOWERR starts an overlay. -/
theorem exec_noOverlay {i : Instr} {s t : State} (hi : i ≠ .showerr) (he : s.errActive = false)
    (h : exec i s = .next t) : t.errActive = false := by
  cases i with
  | init p0 p1 p2 p3 p4 p5 => rw [exec_init_next h, initWith_eq]
  | step => exact exec_step_noOverlay he h
  | showi a => exact (exec_show_errActive (.inl rfl) h).trans he
  | showf a b => exact (exec_show_errActive (.inr rfl) h).trans he
  | showh a => exact (exec_show_errActive (.inl rfl) h).trans he
  | showrsv a b => exact (exec_show_errActive (.inr rfl) h).trans he
  | showerr => exact absurd rfl hi
  | encode b => rw [exec_encode_next h, encodeWith_eq]; exact he
  | adddp b => rw [exec_adddp_next h]; exact he

/-- Settles O47: an idle step and an undefined opcode leave the overlay alone, and of the operations only SHOWERR starts one. -/
theorem onlyShowErrorStartsAnOverlay : Obligations.OnlyShowErrorStartsAnOverlay := by
  intro s t h he ht
  obtain ⟨_, rfl⟩ | ⟨x, rest, i, hx, _, hd, hexec⟩ | ⟨x, rest, op, _, _, _, hu⟩ := step_cases h
  · exact absurd ht (by simp [he])
  · by_cases hi : i = .showerr
    · exact ⟨x, rest, hx, hi ▸ hd⟩
    · have hnone : t.errActive = false := exec_noOverlay (s := issue x.now rest s) hi he hexec
      exact absurd ht (by simp [hnone])
  · rw [execUndefined_eq] at hu
    cases hu
    exact absurd ht (by simp [he])

end Sys2Proof.Machine
end

section
/-! INIT, the undefined opcodes and the configured check: family 44_control.md. -/

namespace Sys2Proof.Machine

open Sys2Proof Sys2Proof.Safety

/-! The undefined opcodes -/

/-- R91, R234: a command whose opcode is outside the map runs as the report of an undefined opcode. -/
theorem runCommand_of_unmapped {c : Command} (h : c.op ∉ mappedOpcodes) (s : State) :
    runCommand c s = execUndefined c.op s := by
  rw [runCommand, (decode_eq_undefined_iff c).2 h]

/-- Settles O9: the decoder names the unmapped opcode, and its report appends one event and drives no pin. -/
theorem undefinedOpcodeIsReported : Obligations.UndefinedOpcodeIsReported := fun _ s h =>
  (runCommand_of_unmapped h s).trans (execUndefined_eq _ s)

/-! INIT -/

theorem decode_of_op_init {c : Command} (h : c.op = 0x01#8) :
    decode c = .instr (.init c.p0 c.p1 c.p2 c.p3 c.p4 c.p5) :=
  (decode_eq_instr_iff c _).2 ⟨h, nofun, nofun, fun _ => ⟨rfl, rfl, rfl, rfl, rfl, rfl⟩⟩

theorem exec_init (p0 p1 p2 p3 p4 p5 : Byte) (s : State) :
    exec (.init p0 p1 p2 p3 p4 p5) s = .next (initWith hardware p0 p1 p2 p3 p4 p5 s) := rfl

/-- Writing one entry of a store sets that entry. -/
theorem memWrite_singleton {α : Type} {n : Nat} (v : Vector α n) (k : Nat) (x : α) (hk : k < n) :
    memWrite v k [x] = v.set k x := by
  ext i hi
  rw [Vector.getElem_set]
  split
  case isTrue h =>
    subst h
    simp [getElem_memWrite_inside]
  case isFalse h =>
    exact getElem_memWrite_outside v k [x] i hi (by rw [List.length_singleton]; omega)

/-- `INIT_FRAME` of this hardware: every segment code zero. -/
theorem initFrame_hardware : hardware.initFrame = #v[0x00#8, 0x00#8, 0x00#8, 0x00#8] := rfl

/-- Settles O13: the next state of `initWith_eq`, in which the two terminators are the stores' entries 0. -/
theorem initConfiguresTheBlock : Obligations.InitConfiguresTheBlock := by
  refine ⟨fun _ => decode_of_op_init, fun p0 p1 p2 p3 p4 p5 s => ?_⟩
  have hin : memWrite s.inBuf 0 [0x00#8] = s.inBuf.set 0 0x00#8 := memWrite_singleton _ 0 _ _
  have hsym : memWrite s.symBuf 0 [0x00#8] = s.symBuf.set 0 0x00#8 := memWrite_singleton _ 0 _ _
  rw [exec_init, initWith_eq, hin, hsym, initFrame_hardware]

/-! The configured check -/

/-- Settles O14: six operations begin with the configured check, and the other three have a next state in every state. -/
theorem unconfiguredBlockFaults : Obligations.UnconfiguredBlockFaults := by
  intro s hc
  have hcheck : ∀ k, whenConfigured s k = .fault .notConfigured := whenConfigured_of_false hc
  exact ⟨hcheck _, fun _ => hcheck _, fun _ _ => hcheck _, fun _ => hcheck _, fun _ _ => hcheck _, hcheck _,
    fun b => ⟨_, exec_encode b s⟩, fun b => ⟨_, exec_adddp b s⟩,
    fun p0 p1 p2 p3 p4 p5 => ⟨_, exec_init p0 p1 p2 p3 p4 p5 s⟩⟩

end Sys2Proof.Machine
end

section
/-! The report kinds: family 60_exceptions.md. -/

namespace Sys2Proof.Machine

open Sys2Proof Sys2Proof.Safety

/-- Settles O56: the four rows of R251's table are the four equations of `diagCode`. -/
theorem reportKindsHaveTheirCodes : Obligations.ReportKindsHaveTheirCodes :=
  ⟨rfl, rfl, rfl, rfl⟩

end Sys2Proof.Machine
end

section
/-! From a switch to the next INIT exactly one digit is enabled: family 70_reset_and_hazards.md. -/

namespace Sys2Proof.Machine

open Sys2Proof Sys2Proof.Safety

/-! What leaves the digits as they were -/

/-- `t` has the multiplex indexes of `s`, and the same digits enabled. -/
structure SameDigits (s t : State) : Prop where
  muxIdx_eq : t.muxIdx = s.muxIdx
  muxPrev_eq : t.muxPrev = s.muxPrev
  enabled_eq : ∀ i, digitEnabled t.trace i = digitEnabled s.trace i

/-- A change that leaves the multiplex indexes and the trace alone leaves the digits as they were. -/
theorem SameDigits.of_eq {s t : State} (hidx : t.muxIdx = s.muxIdx) (hprev : t.muxPrev = s.muxPrev)
    (htrace : t.trace = s.trace) : SameDigits s t :=
  ⟨hidx, hprev, fun i => congrArg (digitEnabled · i) htrace⟩

/-- R252: a report drives no digit. -/
theorem sameDigits_report (s : State) (kind : DiagKind) (info : Nat) :
    SameDigits s { s with trace := s.trace ++ [.diag kind info] } :=
  ⟨rfl, rfl, digitEnabled_concat s.trace (.diag kind info)⟩

theorem sameDigits_showText (p : Params) {text : List CharCode} (hp : Printable text) (hl : text.length ≤ maxIn - 1)
    (places : Option Nat) (s : State) : SameDigits s (showText p text places s) := by
  rw [showText_writes p hp hl]
  exact .of_eq rfl rfl rfl

/-- R116: ENCODE emits a report at most. -/
theorem sameDigits_encodeWith (p : Params) (b : Byte) (s : State) : SameDigits s (encodeWith p b s) := by
  rw [encodeWith_eq]
  cases (rom p b).ok with
  | true => exact .of_eq rfl rfl (by simp)
  | false => exact ⟨rfl, rfl, (sameDigits_report s .unsupportedChar b.toNat).enabled_eq⟩

theorem sameDigits_overlayOrScroll (p : Params) (now : Word) (s : State) : SameDigits s (overlayOrScroll p now s) := by
  rw [overlayOrScroll_writes]
  exact .of_eq rfl rfl rfl

/-- R183, R230: no operation but INIT and STEP drives a digit or moves a multiplex index. -/
theorem sameDigits_exec {i : Instr} {s t : State} (hinit : i.opcode ≠ 0x01#8) (hstep : i ≠ .step)
    (h : exec i s = .next t) : SameDigits s t := by
  cases i with
  | init p0 p1 p2 p3 p4 p5 => exact absurd rfl hinit
  | step => exact absurd rfl hstep
  | showi a =>
    obtain ⟨_, rfl⟩ := exec_showi_next h
    obtain ⟨hp, hl, _⟩ := showText_operand_fits a
    exact sameDigits_showText _ hp hl _ s
  | showf a b =>
    obtain ⟨_, v, _, rfl⟩ := exec_showf_next h
    obtain ⟨hp, hl, _⟩ := showText_operand_fits v
    exact sameDigits_showText _ hp hl _ s
  | showh a =>
    obtain ⟨_, rfl⟩ := exec_showh_next h
    obtain ⟨_, _, hp, hl⟩ := showText_operand_fits a
    exact sameDigits_showText _ hp hl _ s
  | showrsv a b => obtain ⟨_, rfl⟩ := exec_showrsv_next h; exact sameDigits_report s .unknownSelector 3
  | showerr => obtain ⟨_, rfl⟩ := exec_showerr_next h; exact .of_eq rfl rfl rfl
  | encode b => rw [exec_encode_next h]; exact sameDigits_encodeWith _ b s
  | adddp b => rw [exec_adddp_next h]; exact .of_eq rfl rfl rfl

/-! The active digit alone is enabled -/

/-- R276 with R183: exactly the active digit is enabled, and it is also the previously active one. -/
def ActiveDigitAlone (s : State) : Prop := ExactlyOneEnabled s ∧ MuxSettled s

theorem ActiveDigitAlone.of_sameDigits {s t : State} (hs : ActiveDigitAlone s) (h : SameDigits s t) :
    ActiveDigitAlone t := by
  obtain ⟨hone, hmux⟩ := hs
  obtain ⟨hidx, hprev, henabled⟩ := h
  exact ⟨fun i => by rw [henabled, hidx]; exact hone i, by rw [MuxSettled, hidx, hprev]; exact hmux⟩

/-- R189 in the form a switch needs: an active digit that is alone is the only one that can be enabled. -/
theorem ActiveDigitAlone.eq_muxPrev {s : State} (hs : ActiveDigitAlone s) {i : Fin nDigits}
    (hi : digitEnabled s.trace i = true) : i = s.muxPrev := by
  obtain ⟨hone, hmux⟩ := hs
  exact ((hone i).1 hi).trans hmux.symm

/-- R183: a switch disables the one digit that can be enabled, then enables the new active one. -/
theorem activeDigitAlone_muxSwitch_of_due (p : Params) (now : Word) {s : State}
    (hprev : ∀ i, digitEnabled s.trace i = true → i = s.muxPrev) (hd : due now s.muxTs p.refreshMs = true) :
    ActiveDigitAlone (muxSwitch p now s) := by
  rw [muxSwitch_of_due p now hd]
  refine ⟨fun i => ?_, rfl⟩
  dsimp only
  rw [digitEnabled_switchEvents]
  by_cases hnext : s.muxIdx + 1 = i
  · simp [hnext]
  · have hoff : (if s.muxPrev = i then false else digitEnabled s.trace i) = false := by
      split
      · rfl
      · exact Bool.eq_false_iff.2 fun hi => absurd (hprev i hi).symm ‹_›
    simp [hnext, hoff, Ne.symm hnext]

theorem activeDigitAlone_muxSwitch (p : Params) (now : Word) {s : State} (hs : ActiveDigitAlone s) :
    ActiveDigitAlone (muxSwitch p now s) := by
  cases hd : due now s.muxTs p.refreshMs with
  | true => exact activeDigitAlone_muxSwitch_of_due p now (fun _ => hs.eq_muxPrev) hd
  | false => rwa [muxSwitch_of_not_due p now hd]

/-- R276: a STEP that switches, from at most one digit enabled, leaves the active digit alone. -/
theorem activeDigitAlone_exec_step {s t : State} (hs : AtMostOneEnabled s) (hd : 4#32 ≤ s.clock - s.muxTs)
    (h : exec .step s = .next t) : ActiveDigitAlone t := by
  obtain ⟨_, rfl⟩ := exec_step_next h
  have hprev : ∀ i, digitEnabled s.trace i = true → i = s.muxPrev := fun i hi => (hs i hi).2
  have hswitch := activeDigitAlone_muxSwitch_of_due hardware s.clock hprev ((due_iff _ _ _).2 hd)
  exact hswitch.of_sameDigits (sameDigits_overlayOrScroll _ _ _)

/-- R276: every operation but INIT keeps the active digit alone. -/
theorem ActiveDigitAlone.exec {i : Instr} {s t : State} (hs : ActiveDigitAlone s) (hinit : i.opcode ≠ 0x01#8)
    (h : exec i s = .next t) : ActiveDigitAlone t := by
  by_cases hstep : i = .step
  · subst hstep
    obtain ⟨_, rfl⟩ := exec_step_next h
    exact (activeDigitAlone_muxSwitch _ _ hs).of_sameDigits (sameDigits_overlayOrScroll _ _ _)
  · exact hs.of_sameDigits (sameDigits_exec hinit hstep h)

/-- Settles O53: issuing a command touches no digit, then the operation runs; an undefined opcode is only reported. -/
theorem exactlyOneDigitEnabledAfterTheFirstSwitch : Obligations.ExactlyOneDigitEnabledAfterTheFirstSwitch := by
  intro s t h x rest hx
  obtain ⟨hidle, _⟩ | ⟨y, rest', i, hy, _, hd, hexec⟩ | ⟨y, rest', op, hy, _, hd, hu⟩ := step_cases h
  · cases hx.symm.trans hidle
  · obtain ⟨rfl, rfl⟩ := List.cons.inj (hx.symm.trans hy)
    refine ⟨fun hs hstep hdue => ?_, fun hone hmux hop => ?_⟩
    · obtain rfl : i = .step := Decoded.instr.inj (hd.symm.trans hstep)
      exact activeDigitAlone_exec_step (s := issue x.now rest s) hs hdue hexec
    · have hs : ActiveDigitAlone (issue x.now rest s) := ⟨hone, hmux⟩
      exact hs.exec (opcode_of_decode hd ▸ hop) hexec
  · obtain ⟨rfl, rfl⟩ := List.cons.inj (hx.symm.trans hy)
    refine ⟨fun _ hstep => (by cases hd.symm.trans hstep), fun hone hmux _ => ?_⟩
    have hs : ActiveDigitAlone (issue x.now rest s) := ⟨hone, hmux⟩
    rw [execUndefined_eq] at hu
    cases hu
    exact hs.of_sameDigits (sameDigits_report _ _ _)

end Sys2Proof.Machine
end
